-- ==== Sys2Proof/Word.lean ====
section
/-! DEFINITION. The two word widths of the core (00_scope.md R2): 8-bit bytes and 16-bit words. -/

namespace Sys2Proof

/-- A data register, a memory byte, an opcode, a handler's cycle count: 8 bits, unsigned (R2). -/
abbrev Byte := BitVec 8

/-- SP, PC, a pair view, a memory address: 16 bits, unsigned (R2). -/
abbrev Word := BitVec 16

end Sys2Proof
end

