-- ==== Sys2Proof/Config.lean ====
section
/-! DEFINITION. The parameters the spec leaves to the launch (00_scope.md section 5): `JR_BASE` and `IMM16_FIRST`.

They are plain data carried by the launch state ("Launch: the state a model starts from: RESET_STATE, BUS, the parameters",
00_scope.md section 7), so a statement about every state covers every value of them (log 3). The other parameters of that
section, `RESET_STATE` and `BUS`, are the arguments of `State.launch`; `ENV` is `Event.busWrite` of Machine/Access.lean. -/

namespace Sys2Proof

/-- `JR_BASE`: 0 or 2 (00_scope.md R3, U6). -/
inductive JrBase where
  | zero
  | two
  deriving DecidableEq, Repr

/-- `IMM16_FIRST`: which half of a 16-bit immediate the byte at PC+1 holds (00_scope.md R4, U8). -/
inductive Imm16First where
  | high
  | low
  deriving DecidableEq, Repr

/-- The parameters of one instance of the core. -/
structure Params where
  jrBase : JrBase
  imm16First : Imm16First
  deriving DecidableEq, Repr

/-- The spec's default parameters: `JR_BASE` = 0, `IMM16_FIRST` = High (00_scope.md section 5, D6, D7). -/
def Params.default : Params := { jrBase := .zero, imm16First := .high }

end Sys2Proof
end

