-- ==== Sys2Proof/Machine/State.lean ====
section
/-! DEFINITION. The state of the core as plain data (10_state.md R10 to R25, 20_memory.md R30, 70_reset_and_hazards.md R160),
the reasons a step can stop, the launch and the state right after reset. -/

namespace Sys2Proof.Machine

/-- The register file (10_state.md R10, R11, R14, R15). The pair views are computed, never stored (R16, R18). -/
structure RegFile where
  a : Byte
  b : Byte
  c : Byte
  d : Byte
  e : Byte
  h : Byte
  l : Byte
  /-- The flags register, all eight bits stored (R11, C11). -/
  f : Byte
  sp : Word
  pc : Word
  deriving DecidableEq, Repr

/-- The bytes behind the bus, as (address, byte) pairs in the canonical form of `Memory.wf` (Machine/Ops.lean). -/
abbrev Memory := List Host.Cell

/-- The content of the FAULT latch, and the reason a step from a latched state stops (10_state.md R22, 60_exceptions.md R141). -/
inductive Fault where
  /-- Raised by the dispatch step alone, on an opcode byte `op` with no handler fetched at `pc` (R141). The step that raises it
  answers a next state with the latch set; a step from a latched state stops with it. Safe: the spec names this fault. -/
  | noHandler (op : Byte) (pc : Word)
  deriving DecidableEq, Repr

/-- The reasons the model gives an instruction no meaning. -/
inductive Refusal where
  /-- Raised by exec for an instruction that has no meaning yet; no arm does. Safe: nothing can be proved past it. -/
  | notModelled (mnemonic : String)
  deriving DecidableEq, Repr

/-- One transaction of the bus interface (20_memory.md R31): the address and the byte moved. -/
inductive BusTxn where
  | read (address : Word) (value : Byte)
  | write (address : Word) (value : Byte)
  deriving DecidableEq, Repr

/-- The state of one instance of the core and of the memory behind its bus. -/
structure State where
  regs : RegFile
  mem : Memory
  /-- CYC, the running cycle counter (R21). -/
  cyc : Nat
  /-- FAULT (R22). -/
  fault : Option Fault
  /-- The bus transactions of the latest step, oldest first: the model's own record of the interface's output (log 4). -/
  bus : List BusTxn
  /-- The parameters this instance was launched with (00_scope.md section 5); no step changes them (log 3). -/
  params : Params
  deriving DecidableEq, Repr

/-- The launch (R5, R25, R160): any `RESET_STATE`, any memory behind the bus, any parameters; CYC is 0 and FAULT is none. -/
def State.launch (resetState : RegFile) (memory : Memory) (params : Params) : State :=
  { regs := resetState, mem := memory, cyc := 0, fault := none, bus := [], params := params }

/-- The `RESET_STATE` the model names where the spec leaves every value free. DESIGN CHOICE, unsafe (log 1). -/
def RegFile.zeros : RegFile :=
  { a := 0, b := 0, c := 0, d := 0, e := 0, h := 0, l := 0, f := 0, sp := 0, pc := 0 }

/-- The machine right after reset: the launch with the registers of log 1, nothing listed in memory (log 2) and the spec's
default parameters (log 3). -/
def State.reset : State := State.launch RegFile.zeros [] Params.default

/-- A reset of a machine that has run: a fresh launch (60_exceptions.md R145, R160) that takes new register values, clears CYC
and FAULT and touches neither the memory ("the core does not touch it") nor the parameters (log 11). R145 leaves open whether a
latched core may be reset: here it may (log 13, DESIGN CHOICE). -/
def State.relaunch (resetState : RegFile) (s : State) : State := State.launch resetState s.mem s.params

end Sys2Proof.Machine
end

