-- ==== Sys2Proof/Syntax.lean ====
section
/-! DEFINITION. The abstract syntax: one constructor per row of spec/opcode_table.json (00_scope.md R8, 30_encoding.md R56),
and the operand selectors of 30_encoding.md R52 to R54.

An `OP_I16` instruction carries its two immediate bytes in stream order (PC+1, then PC+2); the handler assembles them under
`IMM16_FIRST` (R55), so that decoding depends on nothing but the bytes (R60). An `OP_E8` instruction carries its displacement
as the signed number R55 interprets the byte as. -/

namespace Sys2Proof

/-- The seven general 8-bit registers (10_state.md R10): the operand `r`, r ≠ 6, of 30_encoding.md R52. -/
inductive Reg8 where
  | b
  | c
  | d
  | e
  | h
  | l
  | a
  deriving DecidableEq, Repr

/-- The register pairs an instruction can name (30_encoding.md R53, p = 0, 1, 2). -/
inductive Pair where
  | bc
  | de
  | hl
  deriving DecidableEq, Repr

/-- The four 16-bit views of the register file (10_state.md R16); AF is on the accessor surface only (R17). -/
inductive View where
  | af
  | bc
  | de
  | hl
  deriving DecidableEq, Repr

/-- The view an instruction's pair operand is. -/
def Pair.view : Pair → View
  | .bc => .bc
  | .de => .de
  | .hl => .hl

/-- The four flags of F (10_state.md R11). -/
inductive Flag where
  | z
  | n
  | h
  | c
  deriving DecidableEq, Repr

/-- The conditions of JR cc,e8 (30_encoding.md R54). -/
inductive Cond where
  | nz
  | z
  | nc
  | c
  deriving DecidableEq, Repr

/-- The instructions the core gives a meaning to, in the order of their opcode bytes. -/
inductive Instr where
  /-- NOP: 0x00, format `OP`, R82. -/
  | nop
  /-- LD BC,d16: 0x01, format `OP_I16`, R85. -/
  | ldBcD16 (b1 b2 : Byte)
  /-- LD (BC),A: 0x02, format `OP`, R89. -/
  | ldMbcA
  /-- INC BC: 0x03, format `OP`, R100. -/
  | incBc
  /-- INC B: 0x04, format `OP`, R104. -/
  | incB
  /-- DEC B: 0x05, format `OP`, R106. -/
  | decB
  /-- LD B,d8: 0x06, format `OP_D8`, R87. -/
  | ldBD8 (d8 : Byte)
  /-- RLCA: 0x07, format `OP`, R120. -/
  | rlca
  /-- LD (a16),SP: 0x08, format `OP_I16`, R97. -/
  | ldMa16Sp (b1 b2 : Byte)
  /-- ADD HL,BC: 0x09, format `OP`, R110. -/
  | addHlBc
  /-- LD A,(BC): 0x0A, format `OP`, R93. -/
  | ldAMbc
  /-- DEC BC: 0x0B, format `OP`, R102. -/
  | decBc
  /-- INC C: 0x0C, format `OP`, R104. -/
  | incC
  /-- DEC C: 0x0D, format `OP`, R106. -/
  | decC
  /-- LD C,d8: 0x0E, format `OP_D8`, R87. -/
  | ldCD8 (d8 : Byte)
  /-- RRCA: 0x0F, format `OP`, R122. -/
  | rrca
  /-- LD DE,d16: 0x11, format `OP_I16`, R85. -/
  | ldDeD16 (b1 b2 : Byte)
  /-- LD (DE),A: 0x12, format `OP`, R90. -/
  | ldMdeA
  /-- INC DE: 0x13, format `OP`, R100. -/
  | incDe
  /-- INC D: 0x14, format `OP`, R104. -/
  | incD
  /-- DEC D: 0x15, format `OP`, R106. -/
  | decD
  /-- LD D,d8: 0x16, format `OP_D8`, R87. -/
  | ldDD8 (d8 : Byte)
  /-- RLA: 0x17, format `OP`, R121. -/
  | rla
  /-- JR e8: 0x18, format `OP_E8`, R125. -/
  | jr (e8 : Int)
  /-- ADD HL,DE: 0x19, format `OP`, R110. -/
  | addHlDe
  /-- LD A,(DE): 0x1A, format `OP`, R94. -/
  | ldAMde
  /-- DEC DE: 0x1B, format `OP`, R102. -/
  | decDe
  /-- INC E: 0x1C, format `OP`, R104. -/
  | incE
  /-- DEC E: 0x1D, format `OP`, R106. -/
  | decE
  /-- LD E,d8: 0x1E, format `OP_D8`, R87. -/
  | ldED8 (d8 : Byte)
  /-- RRA: 0x1F, format `OP`, R123. -/
  | rra
  /-- JR NZ,e8: 0x20, format `OP_E8`, R126. -/
  | jrNz (e8 : Int)
  /-- LD HL,d16: 0x21, format `OP_I16`, R85. -/
  | ldHlD16 (b1 b2 : Byte)
  /-- LD (HL+),A: 0x22, format `OP`, R91. -/
  | ldMhlIncA
  /-- INC HL: 0x23, format `OP`, R100. -/
  | incHl
  /-- INC H: 0x24, format `OP`, R104. -/
  | incH
  /-- DEC H: 0x25, format `OP`, R106. -/
  | decH
  /-- LD H,d8: 0x26, format `OP_D8`, R87. -/
  | ldHD8 (d8 : Byte)
  /-- DAA: 0x27, format `OP`, R130. -/
  | daa
  /-- JR Z,e8: 0x28, format `OP_E8`, R126. -/
  | jrZ (e8 : Int)
  /-- ADD HL,HL: 0x29, format `OP`, R110. -/
  | addHlHl
  /-- LD A,(HL+): 0x2A, format `OP`, R95. -/
  | ldAMhlInc
  /-- DEC HL: 0x2B, format `OP`, R102. -/
  | decHl
  /-- INC L: 0x2C, format `OP`, R104. -/
  | incL
  /-- DEC L: 0x2D, format `OP`, R106. -/
  | decL
  /-- LD L,d8: 0x2E, format `OP_D8`, R87. -/
  | ldLD8 (d8 : Byte)
  /-- JR NC,e8: 0x30, format `OP_E8`, R126. -/
  | jrNc (e8 : Int)
  /-- LD SP,d16: 0x31, format `OP_I16`, R86. -/
  | ldSpD16 (b1 b2 : Byte)
  /-- LD (HL-),A: 0x32, format `OP`, R92. -/
  | ldMhlDecA
  /-- INC SP: 0x33, format `OP`, R101. -/
  | incSp
  /-- INC (HL): 0x34, format `OP`, R105. -/
  | incMhl
  /-- DEC (HL): 0x35, format `OP`, R107. -/
  | decMhl
  /-- LD (HL),d8: 0x36, format `OP_D8`, R88. -/
  | ldMhlD8 (d8 : Byte)
  /-- SCF: 0x37, format `OP`, R131. -/
  | scf
  /-- JR C,e8: 0x38, format `OP_E8`, R126. -/
  | jrC (e8 : Int)
  /-- ADD HL,SP: 0x39, format `OP`, R111. -/
  | addHlSp
  /-- LD A,(HL-): 0x3A, format `OP`, R96. -/
  | ldAMhlDec
  /-- DEC SP: 0x3B, format `OP`, R103. -/
  | decSp
  /-- INC A: 0x3C, format `OP`, R104. -/
  | incA
  /-- DEC A: 0x3D, format `OP`, R106. -/
  | decA
  /-- LD A,d8: 0x3E, format `OP_D8`, R87. -/
  | ldAD8 (d8 : Byte)
  /-- ADD A,B: 0x80, format `OP`, R112. -/
  | addAB
  /-- ADD A,C: 0x81, format `OP`, R112. -/
  | addAC
  /-- ADD A,D: 0x82, format `OP`, R112. -/
  | addAD
  /-- ADD A,E: 0x83, format `OP`, R112. -/
  | addAE
  /-- ADD A,H: 0x84, format `OP`, R112. -/
  | addAH
  /-- ADD A,L: 0x85, format `OP`, R112. -/
  | addAL
  /-- ADD A,(HL): 0x86, format `OP`, R113. -/
  | addAMhl
  /-- ADD A,A: 0x87, format `OP`, R112. -/
  | addAA
  /-- ADD A,d8: 0xC6, format `OP_D8`, R114. -/
  | addAD8 (d8 : Byte)
  deriving DecidableEq, Repr

/-! The members of a register family by their operand, for statements about a family as a whole. -/

/-- LD rr,d16 (R85). -/
def Instr.ldRrD16 (b1 b2 : Byte) : Pair → Instr
  | .bc => .ldBcD16 b1 b2
  | .de => .ldDeD16 b1 b2
  | .hl => .ldHlD16 b1 b2

/-- LD r,d8 (R87). -/
def Instr.ldRD8 (d8 : Byte) : Reg8 → Instr
  | .b => .ldBD8 d8
  | .c => .ldCD8 d8
  | .d => .ldDD8 d8
  | .e => .ldED8 d8
  | .h => .ldHD8 d8
  | .l => .ldLD8 d8
  | .a => .ldAD8 d8

/-- INC rr (R100). -/
def Instr.incRr : Pair → Instr
  | .bc => .incBc
  | .de => .incDe
  | .hl => .incHl

/-- DEC rr (R102). -/
def Instr.decRr : Pair → Instr
  | .bc => .decBc
  | .de => .decDe
  | .hl => .decHl

/-- INC r (R104). -/
def Instr.incR : Reg8 → Instr
  | .b => .incB
  | .c => .incC
  | .d => .incD
  | .e => .incE
  | .h => .incH
  | .l => .incL
  | .a => .incA

/-- DEC r (R106). -/
def Instr.decR : Reg8 → Instr
  | .b => .decB
  | .c => .decC
  | .d => .decD
  | .e => .decE
  | .h => .decH
  | .l => .decL
  | .a => .decA

/-- ADD HL,rr (R110). -/
def Instr.addHlRr : Pair → Instr
  | .bc => .addHlBc
  | .de => .addHlDe
  | .hl => .addHlHl

/-- ADD A,r (R112). -/
def Instr.addAR : Reg8 → Instr
  | .b => .addAB
  | .c => .addAC
  | .d => .addAD
  | .e => .addAE
  | .h => .addAH
  | .l => .addAL
  | .a => .addAA

/-- JR cc,e8 (R126). -/
def Instr.jrCc (e8 : Int) : Cond → Instr
  | .nz => .jrNz e8
  | .z => .jrZ e8
  | .nc => .jrNc e8
  | .c => .jrC e8

end Sys2Proof
end

