-- ==== Sys2Proof/Machine/Flags.lean ====
section
/-! DEFINITION. The flags of F, the flag predicates (10_state.md R11 to R13), and the ALU primitives with every flag they
compute (40_alu_primitives.md R70 to R79), DAA's adjustment among them (47_daa_scf.md R130). All are pure (R76). -/

namespace Sys2Proof.Machine

/-- The bit of F that holds a flag (R11). -/
def flagBit : Flag → Nat
  | .z => 7
  | .n => 6
  | .h => 5
  | .c => 4

/-- The flag predicate: a test of one bit of F (R12). -/
def getFlag (fl : Flag) (f : Byte) : Bool := f.getLsbD (flagBit fl)

/-- `F.fl <- v`: sets that one bit and leaves the other seven (R13). -/
def setFlag (fl : Flag) (v : Bool) (f : Byte) : Byte :=
  if v then f ||| (1#8 <<< flagBit fl) else f &&& ~~~(1#8 <<< flagBit fl)

/-- The flag outputs of an operation: a flag it does not list (`none`) is left untouched (R13, 40_alu_primitives.md preamble). -/
structure FlagOut where
  z : Option Bool := none
  n : Option Bool := none
  h : Option Bool := none
  c : Option Bool := none
  deriving DecidableEq, Repr

/-- The output for one flag. -/
def flagOut (o : FlagOut) : Flag → Option Bool
  | .z => o.z
  | .n => o.n
  | .h => o.h
  | .c => o.c

/-- One output written back to F, if there is one (R13). -/
def writeFlag (fl : Flag) (v : Option Bool) (f : Byte) : Byte :=
  match v with
  | none => f
  | some b => setFlag fl b f

/-- The flag outputs written back to F, each as its own bit (R13, R76). -/
def writeFlags (o : FlagOut) (f : Byte) : Byte :=
  writeFlag .c o.c (writeFlag .h o.h (writeFlag .n o.n (writeFlag .z o.z f)))

/-- What an 8-bit primitive gives. -/
structure Alu8 where
  result : Byte
  flags : FlagOut
  deriving DecidableEq, Repr

/-- What a 16-bit primitive gives. -/
structure Alu16 where
  result : Word
  flags : FlagOut
  deriving DecidableEq, Repr

/-- A boolean as the byte 1 or 0 (00_scope.md section 6.1). -/
def bitByte (b : Bool) : Byte := if b then 1 else 0

/-- Carry out of bit 3 of an 8-bit addition: the nibble test (R70, C8). -/
def halfCarry8 (value operand : Byte) : Bool := decide ((value &&& 0x0F).toNat + (operand &&& 0x0F).toNat > 0xF)

/-- `Add8` (R70): the sum of two bytes wraps modulo 256 (R78). -/
def add8 (value operand : Byte) : Alu8 :=
  let result := value + operand
  { result := result
    flags := { z := some (result == 0), n := some false, h := some (halfCarry8 value operand) } }

/-- `AddWithCarryOut` (R71): C is the exact sum exceeding 255. -/
def addWithCarryOut (value operand : Byte) : Alu8 :=
  let result := value + operand
  { result := result
    flags := { z := some (result == 0), n := some false, h := some (halfCarry8 value operand),
               c := some (decide (value.toNat + operand.toNat > 255)) } }

/-- `Add16` (R72): H is the carry out of bit 11 (C5), C the carry out of bit 15. -/
def add16 (pairValue operand : Word) : Alu16 :=
  { result := pairValue + operand
    flags := { n := some false,
               h := some (decide ((pairValue &&& 0x0FFF).toNat + (operand &&& 0x0FFF).toNat > 0x0FFF)),
               c := some (decide (pairValue.toNat + operand.toNat > 65535)) } }

/-- `Sub8` (R73): H is the nibble borrow; C is no output. -/
def sub8 (value operand : Byte) : Alu8 :=
  let result := value - operand
  { result := result
    flags := { z := some (result == 0), n := some true,
               h := some (decide ((value &&& 0x0F).toNat < (operand &&& 0x0F).toNat)) } }

/-- `RotateLeft` (R74): Z from the result. -/
def rotateLeft (value : Byte) (carryIn throughCarry : Bool) : Alu8 :=
  let out := value.getLsbD 7
  let fill := if throughCarry then carryIn else out
  let result := (value <<< 1) ||| bitByte fill
  { result := result, flags := { z := some (result == 0), n := some false, h := some false, c := some out } }

/-- `RotateRight` (R75): Z from the result. -/
def rotateRight (value : Byte) (carryIn throughCarry : Bool) : Alu8 :=
  let out := value.getLsbD 0
  let fill := if throughCarry then carryIn else out
  let result := (value >>> 1) ||| (bitByte fill <<< 7)
  { result := result, flags := { z := some (result == 0), n := some false, h := some false, c := some out } }

/-- The 0x06 condition of DAA: in the addition branch H or a low nibble above 9, in the subtraction branch H alone (R130). -/
def daaLow (a : Byte) (n h : Bool) : Bool := h || (!n && decide ((a &&& 0x0F).toNat > 0x09))

/-- The 0x60 condition of DAA: in the addition branch C or the entry value above 0x99 (D9), in the subtraction branch C alone. -/
def daaHigh (a : Byte) (n c : Bool) : Bool := c || (!n && decide (a.toNat > 0x99))

/-- DAA on A and the flags on entry (R130): Z from the final A, H cleared, N no output; C becomes 1 where the addition branch's
0x60 condition holds and otherwise keeps its old value. -/
def decimalAdjust (a : Byte) (n h c : Bool) : Alu8 :=
  let adj : Byte := (if daaLow a n h then 0x06 else 0) + (if daaHigh a n c then 0x60 else 0)
  let result := if n then a - adj else a + adj
  { result := result
    flags := { z := some (result == 0), h := some false, c := if !n && daaHigh a n c then some true else none } }

/-- SCF's flag outputs (R131). -/
def setCarryFlags : FlagOut := { n := some false, h := some false, c := some true }

/-- `Cond(cc)` on F (R79). -/
def condHolds (cc : Cond) (f : Byte) : Bool :=
  match cc with
  | .nz => !getFlag .z f
  | .z => getFlag .z f
  | .nc => !getFlag .c f
  | .c => getFlag .c f

end Sys2Proof.Machine
end

