-- ==== Sys2Proof/Machine/Operands.lean ====
section
/-! DEFINITION. The operand forms: register and pair operands (10_state.md R16, R17, 30_encoding.md R52, R53), the 16-bit
immediate (R55), the byte split of a 16-bit value (20_memory.md R32), and the relative-jump target (46_jumps.md R127). -/

namespace Sys2Proof.Machine

/-- `{hi, lo}` (00_scope.md section 6.1). -/
def concatBytes (hi lo : Byte) : Word := hi ++ lo

/-- `v[15:8]`, the plain split with no mask (R32, C9). -/
def highByte (v : Word) : Byte := v.extractLsb' 8 8

/-- `v[7:0]`. -/
def lowByte (v : Word) : Byte := v.extractLsb' 0 8

/-- `r8[i]` as a source. -/
def RegFile.get8 (g : RegFile) : Reg8 → Byte
  | .b => g.b
  | .c => g.c
  | .d => g.d
  | .e => g.e
  | .h => g.h
  | .l => g.l
  | .a => g.a

/-- `r8[i] <- v`. -/
def RegFile.set8 (g : RegFile) (r : Reg8) (v : Byte) : RegFile :=
  match r with
  | .b => { g with b := v }
  | .c => { g with c := v }
  | .d => { g with d := v }
  | .e => { g with e := v }
  | .h => { g with h := v }
  | .l => { g with l := v }
  | .a => { g with a := v }

/-- A read of a pair view: the first-named register in bits 15:8 (R16). -/
def RegFile.getView (g : RegFile) : View → Word
  | .af => concatBytes g.a g.f
  | .bc => concatBytes g.b g.c
  | .de => concatBytes g.d g.e
  | .hl => concatBytes g.h g.l

/-- A write of a pair view: both halves, all eight bits of F with AF (R17). -/
def RegFile.setView (g : RegFile) (p : View) (v : Word) : RegFile :=
  match p with
  | .af => { g with a := highByte v, f := lowByte v }
  | .bc => { g with b := highByte v, c := lowByte v }
  | .de => { g with d := highByte v, e := lowByte v }
  | .hl => { g with h := highByte v, l := lowByte v }

/-- `Imm16()` from the bytes at PC+1 and PC+2, in that order, under `IMM16_FIRST` (R4, R55). -/
def imm16 (params : Params) (b1 b2 : Byte) : Word :=
  match params.imm16First with
  | .high => concatBytes b1 b2
  | .low => concatBytes b2 b1

/-- The value of `JR_BASE` (R3). -/
def jrBaseValue : JrBase → Word
  | .zero => 0
  | .two => 2

/-- A displacement as a 16-bit word: `sext_16` of its byte (00_scope.md section 6.1, R55). -/
def displacementWord (e8 : Int) : Word := BitVec.ofInt 16 e8

/-- `JRTarget(PC, e8)` (R127). -/
def jrTarget (params : Params) (pc : Word) (e8 : Int) : Word := pc + jrBaseValue params.jrBase + displacementWord e8

end Sys2Proof.Machine
end

