-- ==== Sys2Proof/Machine/Ops.lean ====
section
/-! DEFINITION. The named operations over memory and the state that every handler is made of: the byte memory behind the bus
and its canonical form, the two bus transactions (20_memory.md R31), the register and flag writes, the end of a handler
(41_step_nop.md R80, R81), and raising the one fault (60_exceptions.md R141). -/

namespace Sys2Proof.Machine

/-- What an address nothing has written reads as. DESIGN CHOICE, unsafe (log 2): the spec leaves the content of `BUS` to the
launch and requires it total (00_scope.md R6, 20_memory.md R38). -/
def Memory.unlisted : Byte := 0

/-- The byte at an address (R30). -/
def Memory.get : Memory → Nat → Byte
  | [], _ => Memory.unlisted
  | (k, w) :: m, a => if k = a then w else Memory.get m a

/-- The memory without any entry for an address. -/
def Memory.erase : Memory → Nat → Memory
  | [], _ => []
  | (k, w) :: m, a => if k = a then Memory.erase m a else (k, w) :: Memory.erase m a

/-- An entry put in front of the first larger address. -/
def Memory.insert : Memory → Nat → Byte → Memory
  | [], a, v => [(a, v)]
  | (k, w) :: m, a, v => if a < k then (a, v) :: (k, w) :: m else (k, w) :: Memory.insert m a v

/-- A byte write that keeps the canonical form: writing what an unlisted address reads as removes the entry. -/
def Memory.set (m : Memory) (a : Nat) (v : Byte) : Memory :=
  if v = Memory.unlisted then Memory.erase m a else Memory.insert (Memory.erase m a) a v

/-- The canonical form: addresses strictly rising and inside the 65536 of R30, no entry equal to what an unlisted address
reads as. -/
abbrev Memory.wf (m : Memory) : Prop :=
  m.Pairwise (fun x y => x.1 < y.1) ∧ ∀ x ∈ m, x.1 < 65536 ∧ x.2 ≠ Memory.unlisted

/-- The byte the bus holds at an address. -/
def State.byteAt (s : State) (a : Word) : Byte := Memory.get s.mem a.toNat

/-- The byte of `MemRead(addr, 1)` and the state after that transaction (R31). -/
def memRead (a : Word) (s : State) : Byte × State :=
  (s.byteAt a, { s with bus := s.bus ++ [.read a (s.byteAt a)] })

/-- `MemWrite(addr, 1, v)` (R31). -/
def memWrite (a : Word) (v : Byte) (s : State) : State :=
  { s with mem := Memory.set s.mem a.toNat v, bus := s.bus ++ [.write a v] }

/-- `r8[i]` as a source. -/
def State.get8 (s : State) (r : Reg8) : Byte := s.regs.get8 r

/-- `r8[i] <- v`. -/
def State.set8 (s : State) (r : Reg8) (v : Byte) : State := { s with regs := s.regs.set8 r v }

/-- A read of a pair view. -/
def State.getView (s : State) (p : View) : Word := s.regs.getView p

/-- A write of a pair view. -/
def State.setView (s : State) (p : View) (v : Word) : State := { s with regs := s.regs.setView p v }

/-- `SP <- v` (10_state.md R14). -/
def State.setSp (s : State) (v : Word) : State := { s with regs := { s.regs with sp := v } }

/-- `PC <- v` (10_state.md R15). -/
def State.setPc (s : State) (v : Word) : State := { s with regs := { s.regs with pc := v } }

/-- The PC write of a non-branching instruction of `len` bytes (R15). -/
def State.advance (s : State) (len : Word) : State := s.setPc (s.regs.pc + len)

/-- A flag predicate on the state (10_state.md R12). -/
def State.flag (s : State) (fl : Flag) : Bool := getFlag fl s.regs.f

/-- A handler's flag outputs written back to F (10_state.md R13). -/
def State.setFlags (s : State) (o : FlagOut) : State := { s with regs := { s.regs with f := writeFlags o s.regs.f } }

/-- `return n`: the handler's cycle count, an unsigned byte (R2), which the dispatch step adds to CYC (R80, R81). -/
def ret (n : Byte) (s : State) : Host.Outcome State Fault Refusal := .next { s with cyc := s.cyc + n.toNat }

/-- Raising the fault (60_exceptions.md R141): the latch is set and nothing else changes. There is no entry sequence (R144) and
no return (R145), so no operation stands beside it. -/
def State.raise (f : Fault) (s : State) : State := { s with fault := some f }

end Sys2Proof.Machine
end

