-- ==== Sys2Proof/Machine/Add.lean ====
section
/-! DEFINITION. The add instructions (44_add.md R110 to R114). -/

namespace Sys2Proof.Machine

/-- `HL <- Add16(HL, operand)` with N, H, C; both operands are read before HL is written (R110, R111). -/
def addToHl (operand : Word) (s : State) : Host.Outcome State Fault Refusal :=
  let o := add16 (s.getView .hl) operand
  ret 8 (((s.setView .hl o.result).setFlags o.flags).advance 1)

/-- ADD HL,BC (R110). -/
def execAddHlBc (s : State) : Host.Outcome State Fault Refusal := addToHl (s.getView .bc) s

/-- ADD HL,DE (R110). -/
def execAddHlDe (s : State) : Host.Outcome State Fault Refusal := addToHl (s.getView .de) s

/-- ADD HL,HL (R110). -/
def execAddHlHl (s : State) : Host.Outcome State Fault Refusal := addToHl (s.getView .hl) s

/-- ADD HL,SP (R111). -/
def execAddHlSp (s : State) : Host.Outcome State Fault Refusal := addToHl s.regs.sp s

/-- `A <- AddWithCarryOut(A, operand)` with all four flags (R112 to R114). -/
def addToA (operand : Byte) (s : State) : State :=
  let o := addWithCarryOut (s.get8 .a) operand
  (s.set8 .a o.result).setFlags o.flags

/-- ADD A,B (R112). -/
def execAddAB (s : State) : Host.Outcome State Fault Refusal := ret 4 ((addToA (s.get8 .b) s).advance 1)

/-- ADD A,C (R112). -/
def execAddAC (s : State) : Host.Outcome State Fault Refusal := ret 4 ((addToA (s.get8 .c) s).advance 1)

/-- ADD A,D (R112). -/
def execAddAD (s : State) : Host.Outcome State Fault Refusal := ret 4 ((addToA (s.get8 .d) s).advance 1)

/-- ADD A,E (R112). -/
def execAddAE (s : State) : Host.Outcome State Fault Refusal := ret 4 ((addToA (s.get8 .e) s).advance 1)

/-- ADD A,H (R112). -/
def execAddAH (s : State) : Host.Outcome State Fault Refusal := ret 4 ((addToA (s.get8 .h) s).advance 1)

/-- ADD A,L (R112). -/
def execAddAL (s : State) : Host.Outcome State Fault Refusal := ret 4 ((addToA (s.get8 .l) s).advance 1)

/-- ADD A,A (R112). -/
def execAddAA (s : State) : Host.Outcome State Fault Refusal := ret 4 ((addToA (s.get8 .a) s).advance 1)

/-- ADD A,(HL) (R113). -/
def execAddAMhl (s : State) : Host.Outcome State Fault Refusal :=
  let r := memRead (s.getView .hl) s
  ret 8 ((addToA r.1 r.2).advance 1)

/-- ADD A,d8 (R114). -/
def execAddAD8 (d8 : Byte) (s : State) : Host.Outcome State Fault Refusal := ret 8 ((addToA d8 s).advance 2)

end Sys2Proof.Machine
end

