-- ==== Sys2Proof/Machine/Adjust.lean ====
section
/-! DEFINITION. DAA and SCF (47_daa_scf.md R130, R131). -/

namespace Sys2Proof.Machine

/-- DAA (R130). -/
def execDaa (s : State) : Host.Outcome State Fault Refusal :=
  let o := decimalAdjust (s.get8 .a) (s.flag .n) (s.flag .h) (s.flag .c)
  ret 4 (((s.set8 .a o.result).setFlags o.flags).advance 1)

/-- SCF (R131). -/
def execScf (s : State) : Host.Outcome State Fault Refusal := ret 4 ((s.setFlags setCarryFlags).advance 1)

end Sys2Proof.Machine
end

