-- ==== Sys2Proof/Machine/IncDec.lean ====
section
/-! DEFINITION. The increment and decrement instructions (43_incdec.md R100 to R107). -/

namespace Sys2Proof.Machine

/-- `rr[p]` moved by one, modulo 65536, no flag written (R100, R102). -/
def stepPair (p : Pair) (move : Word → Word) (s : State) : Host.Outcome State Fault Refusal :=
  ret 8 ((s.setView p.view (move (s.getView p.view))).advance 1)

/-- SP moved by one, modulo 65536, no flag written (R101, R103). -/
def stepSp (move : Word → Word) (s : State) : Host.Outcome State Fault Refusal :=
  ret 8 ((s.setSp (move s.regs.sp)).advance 1)

/-- INC BC (R100). -/
def execIncBc (s : State) : Host.Outcome State Fault Refusal := stepPair .bc (· + 1) s

/-- INC DE (R100). -/
def execIncDe (s : State) : Host.Outcome State Fault Refusal := stepPair .de (· + 1) s

/-- INC HL (R100). -/
def execIncHl (s : State) : Host.Outcome State Fault Refusal := stepPair .hl (· + 1) s

/-- INC SP (R101). -/
def execIncSp (s : State) : Host.Outcome State Fault Refusal := stepSp (· + 1) s

/-- DEC BC (R102). -/
def execDecBc (s : State) : Host.Outcome State Fault Refusal := stepPair .bc (· - 1) s

/-- DEC DE (R102). -/
def execDecDe (s : State) : Host.Outcome State Fault Refusal := stepPair .de (· - 1) s

/-- DEC HL (R102). -/
def execDecHl (s : State) : Host.Outcome State Fault Refusal := stepPair .hl (· - 1) s

/-- DEC SP (R103). -/
def execDecSp (s : State) : Host.Outcome State Fault Refusal := stepSp (· - 1) s

/-- A register replaced by what an ALU primitive makes of it, with the primitive's flags (R104, R106). -/
def updateReg (op : Byte → Alu8) (r : Reg8) (s : State) : Host.Outcome State Fault Refusal :=
  let o := op (s.get8 r)
  ret 4 (((s.set8 r o.result).setFlags o.flags).advance 1)

/-- The byte at HL replaced by what an ALU primitive makes of it, with the primitive's flags: one read, then one write, of the
same address (R105, R107). -/
def updateMhl (op : Byte → Alu8) (s : State) : Host.Outcome State Fault Refusal :=
  let a := s.getView .hl
  let r := memRead a s
  let o := op r.1
  ret 12 (((memWrite a o.result r.2).setFlags o.flags).advance 1)

/-- INC B (R104). -/
def execIncB (s : State) : Host.Outcome State Fault Refusal := updateReg (add8 · 1) .b s

/-- INC C (R104). -/
def execIncC (s : State) : Host.Outcome State Fault Refusal := updateReg (add8 · 1) .c s

/-- INC D (R104). -/
def execIncD (s : State) : Host.Outcome State Fault Refusal := updateReg (add8 · 1) .d s

/-- INC E (R104). -/
def execIncE (s : State) : Host.Outcome State Fault Refusal := updateReg (add8 · 1) .e s

/-- INC H (R104). -/
def execIncH (s : State) : Host.Outcome State Fault Refusal := updateReg (add8 · 1) .h s

/-- INC L (R104). -/
def execIncL (s : State) : Host.Outcome State Fault Refusal := updateReg (add8 · 1) .l s

/-- INC A (R104). -/
def execIncA (s : State) : Host.Outcome State Fault Refusal := updateReg (add8 · 1) .a s

/-- INC (HL) (R105). -/
def execIncMhl (s : State) : Host.Outcome State Fault Refusal := updateMhl (add8 · 1) s

/-- DEC B (R106). -/
def execDecB (s : State) : Host.Outcome State Fault Refusal := updateReg (sub8 · 1) .b s

/-- DEC C (R106). -/
def execDecC (s : State) : Host.Outcome State Fault Refusal := updateReg (sub8 · 1) .c s

/-- DEC D (R106). -/
def execDecD (s : State) : Host.Outcome State Fault Refusal := updateReg (sub8 · 1) .d s

/-- DEC E (R106). -/
def execDecE (s : State) : Host.Outcome State Fault Refusal := updateReg (sub8 · 1) .e s

/-- DEC H (R106). -/
def execDecH (s : State) : Host.Outcome State Fault Refusal := updateReg (sub8 · 1) .h s

/-- DEC L (R106). -/
def execDecL (s : State) : Host.Outcome State Fault Refusal := updateReg (sub8 · 1) .l s

/-- DEC A (R106). -/
def execDecA (s : State) : Host.Outcome State Fault Refusal := updateReg (sub8 · 1) .a s

/-- DEC (HL) (R107). -/
def execDecMhl (s : State) : Host.Outcome State Fault Refusal := updateMhl (sub8 · 1) s

end Sys2Proof.Machine
end

