-- ==== Sys2Proof/Machine/Jumps.lean ====
section
/-! DEFINITION. The relative jumps (46_jumps.md R125 to R127). -/

namespace Sys2Proof.Machine

/-- JR e8 (R125). -/
def execJr (e8 : Int) (s : State) : Host.Outcome State Fault Refusal := ret 12 (s.setPc (jrTarget s.params s.regs.pc e8))

/-- JR cc,e8 (R126): the not-taken path adds 2 whatever `JR_BASE` is. -/
def jumpIf (cc : Cond) (e8 : Int) (s : State) : Host.Outcome State Fault Refusal :=
  if condHolds cc s.regs.f then ret 12 (s.setPc (jrTarget s.params s.regs.pc e8)) else ret 8 (s.advance 2)

/-- JR NZ,e8 (R126). -/
def execJrNz (e8 : Int) (s : State) : Host.Outcome State Fault Refusal := jumpIf .nz e8 s

/-- JR Z,e8 (R126). -/
def execJrZ (e8 : Int) (s : State) : Host.Outcome State Fault Refusal := jumpIf .z e8 s

/-- JR NC,e8 (R126). -/
def execJrNc (e8 : Int) (s : State) : Host.Outcome State Fault Refusal := jumpIf .nc e8 s

/-- JR C,e8 (R126). -/
def execJrC (e8 : Int) (s : State) : Host.Outcome State Fault Refusal := jumpIf .c e8 s

end Sys2Proof.Machine
end

