-- ==== Sys2Proof/Machine/Loads.lean ====
section
/-! DEFINITION. The load and store instructions (42_loads.md R85 to R97). No one of them writes a flag. -/

namespace Sys2Proof.Machine

/-- `rr[p] <- Imm16()` (R85). -/
def loadPairImm (p : Pair) (b1 b2 : Byte) (s : State) : Host.Outcome State Fault Refusal :=
  ret 12 ((s.setView p.view (imm16 s.params b1 b2)).advance 3)

/-- LD BC,d16 (R85). -/
def execLdBcD16 (b1 b2 : Byte) (s : State) : Host.Outcome State Fault Refusal := loadPairImm .bc b1 b2 s

/-- LD DE,d16 (R85). -/
def execLdDeD16 (b1 b2 : Byte) (s : State) : Host.Outcome State Fault Refusal := loadPairImm .de b1 b2 s

/-- LD HL,d16 (R85). -/
def execLdHlD16 (b1 b2 : Byte) (s : State) : Host.Outcome State Fault Refusal := loadPairImm .hl b1 b2 s

/-- LD SP,d16 (R86). -/
def execLdSpD16 (b1 b2 : Byte) (s : State) : Host.Outcome State Fault Refusal :=
  ret 12 ((s.setSp (imm16 s.params b1 b2)).advance 3)

/-- `r8[y] <- Imm8()` (R87). -/
def loadRegImm (r : Reg8) (d8 : Byte) (s : State) : Host.Outcome State Fault Refusal :=
  ret 8 ((s.set8 r d8).advance 2)

/-- LD B,d8 (R87). -/
def execLdBD8 (d8 : Byte) (s : State) : Host.Outcome State Fault Refusal := loadRegImm .b d8 s

/-- LD C,d8 (R87). -/
def execLdCD8 (d8 : Byte) (s : State) : Host.Outcome State Fault Refusal := loadRegImm .c d8 s

/-- LD D,d8 (R87). -/
def execLdDD8 (d8 : Byte) (s : State) : Host.Outcome State Fault Refusal := loadRegImm .d d8 s

/-- LD E,d8 (R87). -/
def execLdED8 (d8 : Byte) (s : State) : Host.Outcome State Fault Refusal := loadRegImm .e d8 s

/-- LD H,d8 (R87). -/
def execLdHD8 (d8 : Byte) (s : State) : Host.Outcome State Fault Refusal := loadRegImm .h d8 s

/-- LD L,d8 (R87). -/
def execLdLD8 (d8 : Byte) (s : State) : Host.Outcome State Fault Refusal := loadRegImm .l d8 s

/-- LD A,d8 (R87). -/
def execLdAD8 (d8 : Byte) (s : State) : Host.Outcome State Fault Refusal := loadRegImm .a d8 s

/-- LD (HL),d8 (R88). -/
def execLdMhlD8 (d8 : Byte) (s : State) : Host.Outcome State Fault Refusal :=
  ret 12 ((memWrite (s.getView .hl) d8 s).advance 2)

/-- The store of A through a pair address (R89, R90). -/
def storeA (p : Pair) (s : State) : Host.Outcome State Fault Refusal :=
  ret 8 ((memWrite (s.getView p.view) (s.get8 .a) s).advance 1)

/-- LD (BC),A (R89). -/
def execLdMbcA (s : State) : Host.Outcome State Fault Refusal := storeA .bc s

/-- LD (DE),A (R90). -/
def execLdMdeA (s : State) : Host.Outcome State Fault Refusal := storeA .de s

/-- The store of A at HL, then HL moved by one (R91, R92): the address is HL on entry. -/
def storeAMoveHl (move : Word → Word) (s : State) : Host.Outcome State Fault Refusal :=
  let a := s.getView .hl
  ret 8 (((memWrite a (s.get8 .a) s).setView .hl (move a)).advance 1)

/-- LD (HL+),A (R91). -/
def execLdMhlIncA (s : State) : Host.Outcome State Fault Refusal := storeAMoveHl (· + 1) s

/-- LD (HL-),A (R92). -/
def execLdMhlDecA (s : State) : Host.Outcome State Fault Refusal := storeAMoveHl (· - 1) s

/-- The load of A through a pair address (R93, R94). -/
def loadA (p : Pair) (s : State) : Host.Outcome State Fault Refusal :=
  let r := memRead (s.getView p.view) s
  ret 8 ((r.2.set8 .a r.1).advance 1)

/-- LD A,(BC) (R93). -/
def execLdAMbc (s : State) : Host.Outcome State Fault Refusal := loadA .bc s

/-- LD A,(DE) (R94). -/
def execLdAMde (s : State) : Host.Outcome State Fault Refusal := loadA .de s

/-- The load of A from HL, then HL moved by one (R95, R96): the address is HL on entry. -/
def loadAMoveHl (move : Word → Word) (s : State) : Host.Outcome State Fault Refusal :=
  let a := s.getView .hl
  let r := memRead a s
  ret 8 (((r.2.set8 .a r.1).setView .hl (move a)).advance 1)

/-- LD A,(HL+) (R95). -/
def execLdAMhlInc (s : State) : Host.Outcome State Fault Refusal := loadAMoveHl (· + 1) s

/-- LD A,(HL-) (R96). -/
def execLdAMhlDec (s : State) : Host.Outcome State Fault Refusal := loadAMoveHl (· - 1) s

/-- LD (a16),SP (R97): the low byte at a16, then the high byte, unmasked, at a16 + 1 (R32, R34, C9, D8). -/
def execLdMa16Sp (b1 b2 : Byte) (s : State) : Host.Outcome State Fault Refusal :=
  let a := imm16 s.params b1 b2
  let lowStored := memWrite a (lowByte s.regs.sp) s
  ret 20 ((memWrite (a + 1) (highByte s.regs.sp) lowStored).advance 3)

end Sys2Proof.Machine
end

