-- ==== Sys2Proof/Machine/Nop.lean ====
section
/-! DEFINITION. NOP (41_step_nop.md R82). -/

namespace Sys2Proof.Machine

/-- NOP (R82). -/
def execNop (s : State) : Host.Outcome State Fault Refusal := ret 4 (s.advance 1)

end Sys2Proof.Machine
end

