-- ==== Sys2Proof/Machine/Rotates.lean ====
section
/-! DEFINITION. The rotate-accumulator instructions (45_rotates.md R120 to R123). -/

namespace Sys2Proof.Machine

/-- A replaced by its rotation, all four flags written (R120 to R123). -/
def rotateA (o : Alu8) (s : State) : Host.Outcome State Fault Refusal :=
  ret 4 (((s.set8 .a o.result).setFlags o.flags).advance 1)

/-- RLCA (R120): circular, the old C flag is no input. -/
def execRlca (s : State) : Host.Outcome State Fault Refusal := rotateA (rotateLeft (s.get8 .a) false false) s

/-- RLA (R121): through the C flag. -/
def execRla (s : State) : Host.Outcome State Fault Refusal := rotateA (rotateLeft (s.get8 .a) (s.flag .c) true) s

/-- RRCA (R122): circular, the old C flag is no input. -/
def execRrca (s : State) : Host.Outcome State Fault Refusal := rotateA (rotateRight (s.get8 .a) false false) s

/-- RRA (R123): through the C flag. -/
def execRra (s : State) : Host.Outcome State Fault Refusal := rotateA (rotateRight (s.get8 .a) (s.flag .c) true) s

end Sys2Proof.Machine
end

