-- ==== Sys2Proof/Machine/Dispatch.lean ====
section
/-! DEFINITION. The handler dispatch (41_step_nop.md R80, R81): one arm per constructor of Instr, each one call of its meaning. -/

namespace Sys2Proof.Machine

/-- The handler of an instruction. -/
def exec (i : Instr) (s : State) : Host.Outcome State Fault Refusal :=
  match i with
  | .nop => Sys2Proof.Machine.execNop s
  | .ldBcD16 b1 b2 => Sys2Proof.Machine.execLdBcD16 b1 b2 s
  | .ldMbcA => Sys2Proof.Machine.execLdMbcA s
  | .incBc => Sys2Proof.Machine.execIncBc s
  | .incB => Sys2Proof.Machine.execIncB s
  | .decB => Sys2Proof.Machine.execDecB s
  | .ldBD8 d8 => Sys2Proof.Machine.execLdBD8 d8 s
  | .rlca => Sys2Proof.Machine.execRlca s
  | .ldMa16Sp b1 b2 => Sys2Proof.Machine.execLdMa16Sp b1 b2 s
  | .addHlBc => Sys2Proof.Machine.execAddHlBc s
  | .ldAMbc => Sys2Proof.Machine.execLdAMbc s
  | .decBc => Sys2Proof.Machine.execDecBc s
  | .incC => Sys2Proof.Machine.execIncC s
  | .decC => Sys2Proof.Machine.execDecC s
  | .ldCD8 d8 => Sys2Proof.Machine.execLdCD8 d8 s
  | .rrca => Sys2Proof.Machine.execRrca s
  | .ldDeD16 b1 b2 => Sys2Proof.Machine.execLdDeD16 b1 b2 s
  | .ldMdeA => Sys2Proof.Machine.execLdMdeA s
  | .incDe => Sys2Proof.Machine.execIncDe s
  | .incD => Sys2Proof.Machine.execIncD s
  | .decD => Sys2Proof.Machine.execDecD s
  | .ldDD8 d8 => Sys2Proof.Machine.execLdDD8 d8 s
  | .rla => Sys2Proof.Machine.execRla s
  | .jr e8 => Sys2Proof.Machine.execJr e8 s
  | .addHlDe => Sys2Proof.Machine.execAddHlDe s
  | .ldAMde => Sys2Proof.Machine.execLdAMde s
  | .decDe => Sys2Proof.Machine.execDecDe s
  | .incE => Sys2Proof.Machine.execIncE s
  | .decE => Sys2Proof.Machine.execDecE s
  | .ldED8 d8 => Sys2Proof.Machine.execLdED8 d8 s
  | .rra => Sys2Proof.Machine.execRra s
  | .jrNz e8 => Sys2Proof.Machine.execJrNz e8 s
  | .ldHlD16 b1 b2 => Sys2Proof.Machine.execLdHlD16 b1 b2 s
  | .ldMhlIncA => Sys2Proof.Machine.execLdMhlIncA s
  | .incHl => Sys2Proof.Machine.execIncHl s
  | .incH => Sys2Proof.Machine.execIncH s
  | .decH => Sys2Proof.Machine.execDecH s
  | .ldHD8 d8 => Sys2Proof.Machine.execLdHD8 d8 s
  | .daa => Sys2Proof.Machine.execDaa s
  | .jrZ e8 => Sys2Proof.Machine.execJrZ e8 s
  | .addHlHl => Sys2Proof.Machine.execAddHlHl s
  | .ldAMhlInc => Sys2Proof.Machine.execLdAMhlInc s
  | .decHl => Sys2Proof.Machine.execDecHl s
  | .incL => Sys2Proof.Machine.execIncL s
  | .decL => Sys2Proof.Machine.execDecL s
  | .ldLD8 d8 => Sys2Proof.Machine.execLdLD8 d8 s
  | .jrNc e8 => Sys2Proof.Machine.execJrNc e8 s
  | .ldSpD16 b1 b2 => Sys2Proof.Machine.execLdSpD16 b1 b2 s
  | .ldMhlDecA => Sys2Proof.Machine.execLdMhlDecA s
  | .incSp => Sys2Proof.Machine.execIncSp s
  | .incMhl => Sys2Proof.Machine.execIncMhl s
  | .decMhl => Sys2Proof.Machine.execDecMhl s
  | .ldMhlD8 d8 => Sys2Proof.Machine.execLdMhlD8 d8 s
  | .scf => Sys2Proof.Machine.execScf s
  | .jrC e8 => Sys2Proof.Machine.execJrC e8 s
  | .addHlSp => Sys2Proof.Machine.execAddHlSp s
  | .ldAMhlDec => Sys2Proof.Machine.execLdAMhlDec s
  | .decSp => Sys2Proof.Machine.execDecSp s
  | .incA => Sys2Proof.Machine.execIncA s
  | .decA => Sys2Proof.Machine.execDecA s
  | .ldAD8 d8 => Sys2Proof.Machine.execLdAD8 d8 s
  | .addAB => Sys2Proof.Machine.execAddAB s
  | .addAC => Sys2Proof.Machine.execAddAC s
  | .addAD => Sys2Proof.Machine.execAddAD s
  | .addAE => Sys2Proof.Machine.execAddAE s
  | .addAH => Sys2Proof.Machine.execAddAH s
  | .addAL => Sys2Proof.Machine.execAddAL s
  | .addAMhl => Sys2Proof.Machine.execAddAMhl s
  | .addAA => Sys2Proof.Machine.execAddAA s
  | .addAD8 d8 => Sys2Proof.Machine.execAddAD8 d8 s

end Sys2Proof.Machine
end

