-- ==== Sys2Proof/WellFormed.lean ====
section
/-! DEFINITION. Well-formedness of an instruction as syntax. Register, pair, flag and condition operands and the 8-bit
immediates are exact types; what remains to check is that a relative jump's displacement fits its byte (30_encoding.md R55,
R59: "which must lie in −128..+127"). -/

namespace Sys2Proof

/-- A displacement that one signed byte can hold (R55: "range −128..+127"). -/
abbrev DisplacementFits (e8 : Int) : Prop := -128 ≤ e8 ∧ e8 ≤ 127

/-- An instruction some bytes encode. -/
def Instr.wellFormed : Instr → Bool
  | .jr e8 => decide (DisplacementFits e8)
  | .jrNz e8 => decide (DisplacementFits e8)
  | .jrZ e8 => decide (DisplacementFits e8)
  | .jrNc e8 => decide (DisplacementFits e8)
  | .jrC e8 => decide (DisplacementFits e8)
  | .nop => true
  | .ldBcD16 _ _ => true
  | .ldMbcA => true
  | .incBc => true
  | .incB => true
  | .decB => true
  | .ldBD8 _ => true
  | .rlca => true
  | .ldMa16Sp _ _ => true
  | .addHlBc => true
  | .ldAMbc => true
  | .decBc => true
  | .incC => true
  | .decC => true
  | .ldCD8 _ => true
  | .rrca => true
  | .ldDeD16 _ _ => true
  | .ldMdeA => true
  | .incDe => true
  | .incD => true
  | .decD => true
  | .ldDD8 _ => true
  | .rla => true
  | .addHlDe => true
  | .ldAMde => true
  | .decDe => true
  | .incE => true
  | .decE => true
  | .ldED8 _ => true
  | .rra => true
  | .ldHlD16 _ _ => true
  | .ldMhlIncA => true
  | .incHl => true
  | .incH => true
  | .decH => true
  | .ldHD8 _ => true
  | .daa => true
  | .addHlHl => true
  | .ldAMhlInc => true
  | .decHl => true
  | .incL => true
  | .decL => true
  | .ldLD8 _ => true
  | .ldSpD16 _ _ => true
  | .ldMhlDecA => true
  | .incSp => true
  | .incMhl => true
  | .decMhl => true
  | .ldMhlD8 _ => true
  | .scf => true
  | .addHlSp => true
  | .ldAMhlDec => true
  | .decSp => true
  | .incA => true
  | .decA => true
  | .ldAD8 _ => true
  | .addAB => true
  | .addAC => true
  | .addAD => true
  | .addAE => true
  | .addAH => true
  | .addAL => true
  | .addAMhl => true
  | .addAA => true
  | .addAD8 _ => true

/-- An instruction's length in bytes, by its format (R50, R58). -/
def Instr.length : Instr → Nat
  | .nop => 1
  | .ldBcD16 _ _ => 3
  | .ldMbcA => 1
  | .incBc => 1
  | .incB => 1
  | .decB => 1
  | .ldBD8 _ => 2
  | .rlca => 1
  | .ldMa16Sp _ _ => 3
  | .addHlBc => 1
  | .ldAMbc => 1
  | .decBc => 1
  | .incC => 1
  | .decC => 1
  | .ldCD8 _ => 2
  | .rrca => 1
  | .ldDeD16 _ _ => 3
  | .ldMdeA => 1
  | .incDe => 1
  | .incD => 1
  | .decD => 1
  | .ldDD8 _ => 2
  | .rla => 1
  | .jr _ => 2
  | .addHlDe => 1
  | .ldAMde => 1
  | .decDe => 1
  | .incE => 1
  | .decE => 1
  | .ldED8 _ => 2
  | .rra => 1
  | .jrNz _ => 2
  | .ldHlD16 _ _ => 3
  | .ldMhlIncA => 1
  | .incHl => 1
  | .incH => 1
  | .decH => 1
  | .ldHD8 _ => 2
  | .daa => 1
  | .jrZ _ => 2
  | .addHlHl => 1
  | .ldAMhlInc => 1
  | .decHl => 1
  | .incL => 1
  | .decL => 1
  | .ldLD8 _ => 2
  | .jrNc _ => 2
  | .ldSpD16 _ _ => 3
  | .ldMhlDecA => 1
  | .incSp => 1
  | .incMhl => 1
  | .decMhl => 1
  | .ldMhlD8 _ => 2
  | .scf => 1
  | .jrC _ => 2
  | .addHlSp => 1
  | .ldAMhlDec => 1
  | .decSp => 1
  | .incA => 1
  | .decA => 1
  | .ldAD8 _ => 2
  | .addAB => 1
  | .addAC => 1
  | .addAD => 1
  | .addAE => 1
  | .addAH => 1
  | .addAL => 1
  | .addAMhl => 1
  | .addAA => 1
  | .addAD8 _ => 2

end Sys2Proof
end

