-- ==== Sys2Proof/Decode.lean ====
section
/-! DEFINITION. The decoder (30_encoding.md R50, R55, R57, R58, R60), total on any bytes, and after it the encoder. The
decoder is the flat 256-entry table of R60, written from the opcode-byte column of R56; the encoder is written from the bit
patterns of R56 and the selector tables of R51 to R54, so that the round trip compares the two. -/

namespace Sys2Proof

/-- The four instruction formats (R50). -/
inductive Format where
  | op
  | opD8
  | opE8
  | opI16
  deriving DecidableEq, Repr

/-- The instruction length of a format (R50, R58). -/
def Format.length : Format → Nat
  | .op => 1
  | .opD8 => 2
  | .opE8 => 2
  | .opI16 => 3

/-- An entry of the opcode table: the handler's instruction, waiting for the operand bytes of its format
(R60: "first-class function values"). -/
inductive OpcodeEntry where
  | op (i : Instr)
  | opD8 (mk : Byte → Instr)
  | opE8 (mk : Int → Instr)
  | opI16 (mk : Byte → Byte → Instr)

/-- The format of an entry. -/
def OpcodeEntry.format : OpcodeEntry → Format
  | .op _ => .op
  | .opD8 _ => .opD8
  | .opE8 _ => .opE8
  | .opI16 _ => .opI16

/-- `Decode : u8 -> handler or none` (R60): the 70 opcode bytes of R56; every other byte has no handler (R57). -/
def decodeOpcode (op : Byte) : Option OpcodeEntry :=
  match op.toNat with
  | 0x00 => some (.op .nop)
  | 0x01 => some (.opI16 .ldBcD16)
  | 0x02 => some (.op .ldMbcA)
  | 0x03 => some (.op .incBc)
  | 0x04 => some (.op .incB)
  | 0x05 => some (.op .decB)
  | 0x06 => some (.opD8 .ldBD8)
  | 0x07 => some (.op .rlca)
  | 0x08 => some (.opI16 .ldMa16Sp)
  | 0x09 => some (.op .addHlBc)
  | 0x0A => some (.op .ldAMbc)
  | 0x0B => some (.op .decBc)
  | 0x0C => some (.op .incC)
  | 0x0D => some (.op .decC)
  | 0x0E => some (.opD8 .ldCD8)
  | 0x0F => some (.op .rrca)
  | 0x11 => some (.opI16 .ldDeD16)
  | 0x12 => some (.op .ldMdeA)
  | 0x13 => some (.op .incDe)
  | 0x14 => some (.op .incD)
  | 0x15 => some (.op .decD)
  | 0x16 => some (.opD8 .ldDD8)
  | 0x17 => some (.op .rla)
  | 0x18 => some (.opE8 .jr)
  | 0x19 => some (.op .addHlDe)
  | 0x1A => some (.op .ldAMde)
  | 0x1B => some (.op .decDe)
  | 0x1C => some (.op .incE)
  | 0x1D => some (.op .decE)
  | 0x1E => some (.opD8 .ldED8)
  | 0x1F => some (.op .rra)
  | 0x20 => some (.opE8 .jrNz)
  | 0x21 => some (.opI16 .ldHlD16)
  | 0x22 => some (.op .ldMhlIncA)
  | 0x23 => some (.op .incHl)
  | 0x24 => some (.op .incH)
  | 0x25 => some (.op .decH)
  | 0x26 => some (.opD8 .ldHD8)
  | 0x27 => some (.op .daa)
  | 0x28 => some (.opE8 .jrZ)
  | 0x29 => some (.op .addHlHl)
  | 0x2A => some (.op .ldAMhlInc)
  | 0x2B => some (.op .decHl)
  | 0x2C => some (.op .incL)
  | 0x2D => some (.op .decL)
  | 0x2E => some (.opD8 .ldLD8)
  | 0x30 => some (.opE8 .jrNc)
  | 0x31 => some (.opI16 .ldSpD16)
  | 0x32 => some (.op .ldMhlDecA)
  | 0x33 => some (.op .incSp)
  | 0x34 => some (.op .incMhl)
  | 0x35 => some (.op .decMhl)
  | 0x36 => some (.opD8 .ldMhlD8)
  | 0x37 => some (.op .scf)
  | 0x38 => some (.opE8 .jrC)
  | 0x39 => some (.op .addHlSp)
  | 0x3A => some (.op .ldAMhlDec)
  | 0x3B => some (.op .decSp)
  | 0x3C => some (.op .incA)
  | 0x3D => some (.op .decA)
  | 0x3E => some (.opD8 .ldAD8)
  | 0x80 => some (.op .addAB)
  | 0x81 => some (.op .addAC)
  | 0x82 => some (.op .addAD)
  | 0x83 => some (.op .addAE)
  | 0x84 => some (.op .addAH)
  | 0x85 => some (.op .addAL)
  | 0x86 => some (.op .addAMhl)
  | 0x87 => some (.op .addAA)
  | 0xC6 => some (.opD8 .addAD8)
  | _ => none

/-- Why a sequence of bytes is not an instruction. -/
inductive DecodeError where
  /-- The opcode byte has no handler (R57). -/
  | noHandler (op : Byte)
  /-- The bytes end before the instruction's length (R58) or before its opcode byte. -/
  | truncated
  deriving DecidableEq, Repr

/-- The displacement byte read as a two's complement number (R55). -/
def displacement (b : Byte) : Int := b.toInt

/-- The first instruction of a byte sequence and the bytes after it (R55, R58). -/
def decode : List Byte → Except DecodeError (Instr × List Byte)
  | [] => .error .truncated
  | op :: rest =>
    match decodeOpcode op with
    | none => .error (.noHandler op)
    | some (.op i) => .ok (i, rest)
    | some (.opD8 mk) =>
      match rest with
      | b1 :: rest => .ok (mk b1, rest)
      | [] => .error .truncated
    | some (.opE8 mk) =>
      match rest with
      | b1 :: rest => .ok (mk (displacement b1), rest)
      | [] => .error .truncated
    | some (.opI16 mk) =>
      match rest with
      | b1 :: b2 :: rest => .ok (mk b1 b2, rest)
      | _ => .error .truncated

/-- The longest instruction, in bytes (R50). -/
def maxInstrLength : Nat := 3

/-- The bytes of a word whose bit 0 is the least significant bit of the first byte, as the hardware stores them: `n` bytes,
the first at the lowest address, every bit at or above `nbits` zero. -/
def tableBytes (nbits w : Nat) : Nat → List Byte
  | 0 => []
  | n + 1 => BitVec.ofNat 8 (w % 2 ^ nbits) :: tableBytes (nbits - 8) (w / 2 ^ 8) n

/-- The instruction the decoder reads from the bits `w` of a row of spec/opcode_table.json. -/
def decodeTableWord (nbits w : Nat) : Option Instr :=
  match decode (tableBytes nbits w maxInstrLength) with
  | .ok (i, _) => some i
  | .error _ => none

/-! The encoder. -/

/-- The operand selector `r` (R52). -/
def Reg8.selector : Reg8 → BitVec 3
  | .b => 0
  | .c => 1
  | .d => 2
  | .e => 3
  | .h => 4
  | .l => 5
  | .a => 7

/-- The selector of the memory operand (HL) (R52). -/
def mhlSelector : BitVec 3 := 6

/-- The operand selector `p` of a pair (R53). -/
def Pair.selector : Pair → BitVec 2
  | .bc => 0
  | .de => 1
  | .hl => 2

/-- The operand selector `p` of SP (R53, first row). -/
def spSelector : BitVec 2 := 3

/-- The address selector `p` of (HL+) (R53, second row). -/
def mhlIncSelector : BitVec 2 := 2

/-- The address selector `p` of (HL-) (R53, second row). -/
def mhlDecSelector : BitVec 2 := 3

/-- The condition selector `cc` (R54). -/
def Cond.selector : Cond → BitVec 2
  | .nz => 0
  | .z => 1
  | .nc => 2
  | .c => 3

/-- The opcode byte with fields x = op[7:6], y = op[5:3], z = op[2:0] (R51). -/
def opcodeXYZ (x : BitVec 2) (y z : BitVec 3) : Byte := x ++ y ++ z

/-- The opcode byte with y read as p = op[5:4], q = op[3] (R51). -/
def opcodeXPQZ (x p : BitVec 2) (q : BitVec 1) (z : BitVec 3) : Byte := x ++ p ++ q ++ z

/-- The opcode byte `001cc000` of JR cc,e8: cc = op[4:3] (R54, R56). -/
def opcodeJrCc (cc : Cond) : Byte := (0b001#3) ++ cc.selector ++ (0b000#3)

/-- The displacement byte of a displacement (R55). -/
def displacementByte (e8 : Int) : Byte := BitVec.ofInt 8 e8

/-- The bytes of an instruction, in address order (R50, R56). -/
def encode : Instr → List Byte
  | .nop => [opcodeXYZ 0 0 0]
  | .ldBcD16 b1 b2 => [opcodeXPQZ 0 Pair.bc.selector 0 1, b1, b2]
  | .ldMbcA => [opcodeXPQZ 0 Pair.bc.selector 0 2]
  | .incBc => [opcodeXPQZ 0 Pair.bc.selector 0 3]
  | .incB => [opcodeXYZ 0 Reg8.b.selector 4]
  | .decB => [opcodeXYZ 0 Reg8.b.selector 5]
  | .ldBD8 d8 => [opcodeXYZ 0 Reg8.b.selector 6, d8]
  | .rlca => [opcodeXYZ 0 0 7]
  | .ldMa16Sp b1 b2 => [opcodeXYZ 0 1 0, b1, b2]
  | .addHlBc => [opcodeXPQZ 0 Pair.bc.selector 1 1]
  | .ldAMbc => [opcodeXPQZ 0 Pair.bc.selector 1 2]
  | .decBc => [opcodeXPQZ 0 Pair.bc.selector 1 3]
  | .incC => [opcodeXYZ 0 Reg8.c.selector 4]
  | .decC => [opcodeXYZ 0 Reg8.c.selector 5]
  | .ldCD8 d8 => [opcodeXYZ 0 Reg8.c.selector 6, d8]
  | .rrca => [opcodeXYZ 0 1 7]
  | .ldDeD16 b1 b2 => [opcodeXPQZ 0 Pair.de.selector 0 1, b1, b2]
  | .ldMdeA => [opcodeXPQZ 0 Pair.de.selector 0 2]
  | .incDe => [opcodeXPQZ 0 Pair.de.selector 0 3]
  | .incD => [opcodeXYZ 0 Reg8.d.selector 4]
  | .decD => [opcodeXYZ 0 Reg8.d.selector 5]
  | .ldDD8 d8 => [opcodeXYZ 0 Reg8.d.selector 6, d8]
  | .rla => [opcodeXYZ 0 2 7]
  | .jr e8 => [opcodeXYZ 0 3 0, displacementByte e8]
  | .addHlDe => [opcodeXPQZ 0 Pair.de.selector 1 1]
  | .ldAMde => [opcodeXPQZ 0 Pair.de.selector 1 2]
  | .decDe => [opcodeXPQZ 0 Pair.de.selector 1 3]
  | .incE => [opcodeXYZ 0 Reg8.e.selector 4]
  | .decE => [opcodeXYZ 0 Reg8.e.selector 5]
  | .ldED8 d8 => [opcodeXYZ 0 Reg8.e.selector 6, d8]
  | .rra => [opcodeXYZ 0 3 7]
  | .jrNz e8 => [opcodeJrCc .nz, displacementByte e8]
  | .ldHlD16 b1 b2 => [opcodeXPQZ 0 Pair.hl.selector 0 1, b1, b2]
  | .ldMhlIncA => [opcodeXPQZ 0 mhlIncSelector 0 2]
  | .incHl => [opcodeXPQZ 0 Pair.hl.selector 0 3]
  | .incH => [opcodeXYZ 0 Reg8.h.selector 4]
  | .decH => [opcodeXYZ 0 Reg8.h.selector 5]
  | .ldHD8 d8 => [opcodeXYZ 0 Reg8.h.selector 6, d8]
  | .daa => [opcodeXYZ 0 4 7]
  | .jrZ e8 => [opcodeJrCc .z, displacementByte e8]
  | .addHlHl => [opcodeXPQZ 0 Pair.hl.selector 1 1]
  | .ldAMhlInc => [opcodeXPQZ 0 mhlIncSelector 1 2]
  | .decHl => [opcodeXPQZ 0 Pair.hl.selector 1 3]
  | .incL => [opcodeXYZ 0 Reg8.l.selector 4]
  | .decL => [opcodeXYZ 0 Reg8.l.selector 5]
  | .ldLD8 d8 => [opcodeXYZ 0 Reg8.l.selector 6, d8]
  | .jrNc e8 => [opcodeJrCc .nc, displacementByte e8]
  | .ldSpD16 b1 b2 => [opcodeXPQZ 0 spSelector 0 1, b1, b2]
  | .ldMhlDecA => [opcodeXPQZ 0 mhlDecSelector 0 2]
  | .incSp => [opcodeXPQZ 0 spSelector 0 3]
  | .incMhl => [opcodeXYZ 0 mhlSelector 4]
  | .decMhl => [opcodeXYZ 0 mhlSelector 5]
  | .ldMhlD8 d8 => [opcodeXYZ 0 mhlSelector 6, d8]
  | .scf => [opcodeXYZ 0 6 7]
  | .jrC e8 => [opcodeJrCc .c, displacementByte e8]
  | .addHlSp => [opcodeXPQZ 0 spSelector 1 1]
  | .ldAMhlDec => [opcodeXPQZ 0 mhlDecSelector 1 2]
  | .decSp => [opcodeXPQZ 0 spSelector 1 3]
  | .incA => [opcodeXYZ 0 Reg8.a.selector 4]
  | .decA => [opcodeXYZ 0 Reg8.a.selector 5]
  | .ldAD8 d8 => [opcodeXYZ 0 Reg8.a.selector 6, d8]
  | .addAB => [opcodeXYZ 2 0 Reg8.b.selector]
  | .addAC => [opcodeXYZ 2 0 Reg8.c.selector]
  | .addAD => [opcodeXYZ 2 0 Reg8.d.selector]
  | .addAE => [opcodeXYZ 2 0 Reg8.e.selector]
  | .addAH => [opcodeXYZ 2 0 Reg8.h.selector]
  | .addAL => [opcodeXYZ 2 0 Reg8.l.selector]
  | .addAMhl => [opcodeXYZ 2 0 mhlSelector]
  | .addAA => [opcodeXYZ 2 0 Reg8.a.selector]
  | .addAD8 d8 => [opcodeXYZ 3 0 6, d8]

end Sys2Proof
end

