-- ==== Sys2Proof/Machine/Fetch.lean ====
section
/-! DEFINITION. Fetching the next instruction (41_step_nop.md R80, 20_memory.md R35): the opcode byte at PC, then the operand
bytes of its format at PC+1 and PC+2, each read once; and placing an instruction where the next step fetches it. -/

namespace Sys2Proof.Machine

/-- The operand bytes of an entry's format, read in address order with wrap-around (R34, R50, R55): `Imm8()` and the two reads
of `Imm16()`, made here because exec is given the whole instruction (log 8). -/
def fetchOperands (entry : OpcodeEntry) (s : State) : Instr × State :=
  match entry with
  | .op i => (i, s)
  | .opD8 mk =>
    let r1 := memRead (s.regs.pc + 1) s
    (mk r1.1, r1.2)
  | .opE8 mk =>
    let r1 := memRead (s.regs.pc + 1) s
    (mk (displacement r1.1), r1.2)
  | .opI16 mk =>
    let r1 := memRead (s.regs.pc + 1) s
    let r2 := memRead (s.regs.pc + 2) r1.2
    (mk r1.1 r2.1, r2.2)

/-- The instruction at PC, or the fault its opcode byte raises (R57, R141: no byte after that opcode byte is read), and the
state after the fetch's bus transactions, the record of which starts anew with each step (log 4). PC is unchanged (R80). -/
def fetch (s : State) : Except Fault Instr × State :=
  let r0 := memRead s.regs.pc { s with bus := [] }
  match decodeOpcode r0.1 with
  | none => (.error (.noHandler r0.1 s.regs.pc), r0.2)
  | some entry =>
    let fetched := fetchOperands entry r0.2
    (.ok fetched.1, fetched.2)

/-- Bytes placed in memory at consecutive addresses, wrapping, from an address on (R34, R50). -/
def placeBytes (m : Memory) (a : Word) : List Byte → Memory
  | [] => m
  | v :: vs => placeBytes (Memory.set m a.toNat v) (a + 1) vs

end Sys2Proof.Machine
end

