-- ==== Sys2Proof/Machine/Step.lean ====
section
/-! DEFINITION. The dispatch step (41_step_nop.md R80, 10_state.md R22). -/

namespace Sys2Proof.Machine

/-- One step: while FAULT is set there is none; an opcode byte with no handler sets FAULT and nothing else; otherwise the
handler runs on the state the fetch leaves. -/
def step (s : State) : Host.Outcome State Fault Refusal :=
  match s.fault with
  | some f => .fault f
  | none =>
    match fetch s with
    | (.ok i, fetched) => exec i fetched
    | (.error f, fetched) => .next (fetched.raise f)

/-- The instruction whose bits are `w`, placed where step fetches its next one: its bytes at PC and after, and FAULT cleared,
since a latched core takes no step (log 10). -/
def State.withFetchWord (s : State) (nbits w : Nat) : State :=
  { s with mem := placeBytes s.mem s.regs.pc (tableBytes nbits w maxInstrLength), fault := none }

end Sys2Proof.Machine
end

