-- ==== Sys2Proof/Machine/Access.lean ====
section
/-! DEFINITION. What the surroundings may do between two steps (70_reset_and_hazards.md R163, 60_exceptions.md R142): the
accessor surface of the register file (10_state.md R24), another bus master's byte write (`ENV`, 00_scope.md R6), and a reset
(60_exceptions.md R145). Nothing of it can happen inside a step: a step is one function (20_memory.md R36, U3). -/

namespace Sys2Proof.Machine

/-- A field or view of the accessor surface (R24). -/
inductive OutsideReg where
  | reg8 (r : Reg8)
  | f
  | sp
  | pc
  | view (p : View)
  deriving DecidableEq, Repr

/-- The width of a field or view (00_scope.md R2). -/
def OutsideReg.width : OutsideReg → Nat
  | .reg8 _ => 8
  | .f => 8
  | .sp => 16
  | .pc => 16
  | .view _ => 16

/-- A getter: "returns the current truncated value of its field" (10_state.md R19). -/
def outsideRead (x : OutsideReg) (s : State) : Nat :=
  match x with
  | .reg8 r => (s.get8 r).toNat
  | .f => s.regs.f.toNat
  | .sp => s.regs.sp.toNat
  | .pc => s.regs.pc.toNat
  | .view p => (s.getView p).toNat

/-- A setter: "truncates the input to the field's bit width and stores it" (R19); a view writes both halves (R17). DESIGN CHOICE
(log 12): it works while FAULT is latched too. -/
def outsideWrite (x : OutsideReg) (v : Nat) (s : State) : State :=
  match x with
  | .reg8 r => s.set8 r (BitVec.ofNat 8 v)
  | .f => { s with regs := { s.regs with f := BitVec.ofNat 8 v } }
  | .sp => s.setSp (BitVec.ofNat 16 v)
  | .pc => s.setPc (BitVec.ofNat 16 v)
  | .view p => s.setView p (BitVec.ofNat 16 v)

/-- Another master's write to the memory (R6): not a transaction of the core, so the core's record of transactions keeps
what it holds. DESIGN CHOICE (log 13): it may happen while FAULT is latched too. -/
def envWrite (a : Word) (v : Byte) (s : State) : State := { s with mem := Memory.set s.mem a.toNat v }

/-- What can happen to the core and the memory behind its bus, one at a time (R163). -/
inductive Event where
  | step
  | regWrite (x : OutsideReg) (v : Nat)
  | busWrite (a : Word) (v : Byte)
  | relaunch (resetState : RegFile)
  deriving DecidableEq, Repr

/-- One event. R163 and R6 speak of what happens between two steps, and no step follows a latched FAULT: that the events other
than a step may happen then too is the model's choice (log 12 for an accessor write, log 13 for another master's write and a
reset, DESIGN CHOICE). -/
def applyEvent (e : Event) (s : State) : Host.Outcome State Fault Refusal :=
  match e with
  | .step => step s
  | .regWrite x v => .next (outsideWrite x v s)
  | .busWrite a v => .next (envWrite a v s)
  | .relaunch g => .next (s.relaunch g)

/-- A history of events, stopping where a step does. -/
def runEvents : List Event → State → Host.Outcome State Fault Refusal
  | [], s => .next s
  | e :: es, s =>
    match applyEvent e s with
    | .next t => runEvents es t
    | .fault f => .fault f
    | .refused r => .refused r

end Sys2Proof.Machine
end

