-- ==== Sys2Proof/Safety.lean ====
section
/-! DEFINITION. The terms claims about runs and frames are stated in: safe runs, the invariant of the core's state, and the
spec's own summary tables of what each instruction may change (10_state.md after R19, after R13, in R14 and R15; 20_memory.md
R35; 70_reset_and_hazards.md R165). The tables are written from the spec's tables, not from the handlers. -/

namespace Sys2Proof.Machine

/-- A state from which `n` steps run with FAULT clear throughout: "A state with FAULT set is not a successful end of a run"
(60_exceptions.md R141). -/
def SafeRun : Nat → State → Prop
  | 0, s => s.fault = none
  | n + 1, s => s.fault = none ∧ ∃ t, step s = .next t ∧ SafeRun n t

/-- The invariant of the core's state: the memory is in canonical form, CYC is a multiple of 4 (the counts are 4, 8, 12 and 20,
R81), and a latched fault names a byte without a handler that stands at PC (R141, R144). -/
structure State.Inv (s : State) : Prop where
  memory : Memory.wf s.mem
  cycles : s.cyc % 4 = 0
  latch : ∀ op pc, s.fault = some (.noHandler op pc) →
    (decodeOpcode op).isNone = true ∧ s.regs.pc = pc ∧ s.byteAt pc = op

/-- The 186 opcode bytes without a handler, as 30_encoding.md R57 lists them. -/
def hasNoHandler (op : Byte) : Prop :=
  op = 0x10 ∨ op = 0x2F ∨ op = 0x3F ∨ (0x40 ≤ op.toNat ∧ op.toNat ≤ 0x7F) ∨ (0x88 ≤ op.toNat ∧ op.toNat ≤ 0xC5) ∨
    0xC7 ≤ op.toNat

/-- The general registers an instruction writes (10_state.md, the table after R19). -/
def regsWritten : Instr → List Reg8
  | .ldBcD16 _ _ | .incBc | .decBc => [.b, .c]
  | .ldDeD16 _ _ | .incDe | .decDe => [.d, .e]
  | .ldHlD16 _ _ | .incHl | .decHl | .addHlBc | .addHlDe | .addHlHl | .addHlSp | .ldMhlIncA | .ldMhlDecA => [.h, .l]
  | .ldAMhlInc | .ldAMhlDec => [.a, .h, .l]
  | .ldBD8 _ | .incB | .decB => [.b]
  | .ldCD8 _ | .incC | .decC => [.c]
  | .ldDD8 _ | .incD | .decD => [.d]
  | .ldED8 _ | .incE | .decE => [.e]
  | .ldHD8 _ | .incH | .decH => [.h]
  | .ldLD8 _ | .incL | .decL => [.l]
  | .ldAD8 _ | .incA | .decA | .ldAMbc | .ldAMde | .rlca | .rla | .rrca | .rra | .daa | .addAB | .addAC | .addAD
  | .addAE | .addAH | .addAL | .addAA | .addAMhl | .addAD8 _ => [.a]
  | .nop | .ldMbcA | .ldMa16Sp _ _ | .ldMdeA | .jr _ | .jrNz _ | .jrZ _ | .jrNc _ | .ldSpD16 _ _ | .incSp
  | .incMhl | .decMhl | .ldMhlD8 _ | .scf | .jrC _ | .decSp => []

/-- The flags an instruction writes (10_state.md, the table after R13). -/
def flagsWritten : Instr → List Flag
  | .incB | .incC | .incD | .incE | .incH | .incL | .incA | .incMhl | .decB | .decC | .decD | .decE | .decH
  | .decL | .decA | .decMhl => [.z, .n, .h]
  | .addHlBc | .addHlDe | .addHlHl | .addHlSp => [.n, .h, .c]
  | .addAB | .addAC | .addAD | .addAE | .addAH | .addAL | .addAA | .addAMhl | .addAD8 _ | .rlca | .rla | .rrca
  | .rra => [.z, .n, .h, .c]
  | .daa => [.z, .h, .c]
  | .scf => [.n, .h, .c]
  | .nop | .ldBcD16 _ _ | .ldMbcA | .incBc | .ldBD8 _ | .ldMa16Sp _ _ | .ldAMbc | .decBc | .ldCD8 _
  | .ldDeD16 _ _ | .ldMdeA | .incDe | .ldDD8 _ | .jr _ | .ldAMde | .decDe | .ldED8 _ | .jrNz _ | .ldHlD16 _ _
  | .ldMhlIncA | .incHl | .ldHD8 _ | .jrZ _ | .ldAMhlInc | .decHl | .ldLD8 _ | .jrNc _ | .ldSpD16 _ _
  | .ldMhlDecA | .incSp | .ldMhlD8 _ | .jrC _ | .ldAMhlDec | .decSp | .ldAD8 _ => []

/-- The instructions that write SP (10_state.md R14). -/
def writesSp : Instr → Bool
  | .ldSpD16 _ _ | .incSp | .decSp => true
  | .nop | .ldBcD16 _ _ | .ldMbcA | .incBc | .incB | .decB | .ldBD8 _ | .rlca | .ldMa16Sp _ _ | .addHlBc
  | .ldAMbc | .decBc | .incC | .decC | .ldCD8 _ | .rrca | .ldDeD16 _ _ | .ldMdeA | .incDe | .incD | .decD
  | .ldDD8 _ | .rla | .jr _ | .addHlDe | .ldAMde | .decDe | .incE | .decE | .ldED8 _ | .rra | .jrNz _
  | .ldHlD16 _ _ | .ldMhlIncA | .incHl | .incH | .decH | .ldHD8 _ | .daa | .jrZ _ | .addHlHl | .ldAMhlInc
  | .decHl | .incL | .decL | .ldLD8 _ | .jrNc _ | .ldMhlDecA | .incMhl | .decMhl | .ldMhlD8 _ | .scf | .jrC _
  | .addHlSp | .ldAMhlDec | .incA | .decA | .ldAD8 _ | .addAB | .addAC | .addAD | .addAE | .addAH | .addAL
  | .addAMhl | .addAA | .addAD8 _ => false

/-- The addresses an instruction stores to, from the state it runs on (20_memory.md R35). -/
def storedAddresses (i : Instr) (s : State) : List Word :=
  match i with
  | .ldMhlD8 _ | .ldMhlIncA | .ldMhlDecA | .incMhl | .decMhl => [s.getView .hl]
  | .ldMbcA => [s.getView .bc]
  | .ldMdeA => [s.getView .de]
  | .ldMa16Sp b1 b2 => [imm16 s.params b1 b2, imm16 s.params b1 b2 + 1]
  | .nop | .ldBcD16 _ _ | .incBc | .incB | .decB | .ldBD8 _ | .rlca | .addHlBc | .ldAMbc | .decBc | .incC
  | .decC | .ldCD8 _ | .rrca | .ldDeD16 _ _ | .incDe | .incD | .decD | .ldDD8 _ | .rla | .jr _ | .addHlDe
  | .ldAMde | .decDe | .incE | .decE | .ldED8 _ | .rra | .jrNz _ | .ldHlD16 _ _ | .incHl | .incH | .decH
  | .ldHD8 _ | .daa | .jrZ _ | .addHlHl | .ldAMhlInc | .decHl | .incL | .decL | .ldLD8 _ | .jrNc _
  | .ldSpD16 _ _ | .incSp | .scf | .jrC _ | .addHlSp | .ldAMhlDec | .decSp | .incA | .decA | .ldAD8 _ | .addAB
  | .addAC | .addAD | .addAE | .addAH | .addAL | .addAMhl | .addAA | .addAD8 _ => []

/-- The data accesses an instruction makes, in order, after the reads of its own bytes (20_memory.md R35). -/
def dataAccesses (i : Instr) (s : State) : List BusTxn :=
  match i with
  | .ldMhlD8 d8 => [.write (s.getView .hl) d8]
  | .ldMhlIncA | .ldMhlDecA => [.write (s.getView .hl) (s.get8 .a)]
  | .ldMbcA => [.write (s.getView .bc) (s.get8 .a)]
  | .ldMdeA => [.write (s.getView .de) (s.get8 .a)]
  | .ldAMbc => [.read (s.getView .bc) (s.byteAt (s.getView .bc))]
  | .ldAMde => [.read (s.getView .de) (s.byteAt (s.getView .de))]
  | .ldAMhlInc | .ldAMhlDec | .addAMhl => [.read (s.getView .hl) (s.byteAt (s.getView .hl))]
  | .incMhl => [.read (s.getView .hl) (s.byteAt (s.getView .hl)), .write (s.getView .hl) (s.byteAt (s.getView .hl) + 1)]
  | .decMhl => [.read (s.getView .hl) (s.byteAt (s.getView .hl)), .write (s.getView .hl) (s.byteAt (s.getView .hl) - 1)]
  | .ldMa16Sp b1 b2 =>
    [.write (imm16 s.params b1 b2) (lowByte s.regs.sp), .write (imm16 s.params b1 b2 + 1) (highByte s.regs.sp)]
  | .nop | .ldBcD16 _ _ | .incBc | .incB | .decB | .ldBD8 _ | .rlca | .addHlBc | .decBc | .incC | .decC
  | .ldCD8 _ | .rrca | .ldDeD16 _ _ | .incDe | .incD | .decD | .ldDD8 _ | .rla | .jr _ | .addHlDe | .decDe
  | .incE | .decE | .ldED8 _ | .rra | .jrNz _ | .ldHlD16 _ _ | .incHl | .incH | .decH | .ldHD8 _ | .daa | .jrZ _
  | .addHlHl | .decHl | .incL | .decL | .ldLD8 _ | .jrNc _ | .ldSpD16 _ _ | .incSp | .scf | .jrC _ | .addHlSp
  | .decSp | .incA | .decA | .ldAD8 _ | .addAB | .addAC | .addAD | .addAE | .addAH | .addAL | .addAA | .addAD8 _ => []

/-- The PC after an instruction, from the state it runs on (10_state.md, the table after R15). -/
def nextPc (i : Instr) (s : State) : Word :=
  match i with
  | .jr e8 => jrTarget s.params s.regs.pc e8
  | .jrNz e8 => if s.flag .z then s.regs.pc + 2 else jrTarget s.params s.regs.pc e8
  | .jrZ e8 => if s.flag .z then jrTarget s.params s.regs.pc e8 else s.regs.pc + 2
  | .jrNc e8 => if s.flag .c then s.regs.pc + 2 else jrTarget s.params s.regs.pc e8
  | .jrC e8 => if s.flag .c then jrTarget s.params s.regs.pc e8 else s.regs.pc + 2
  | .ldBD8 _ | .ldCD8 _ | .ldDD8 _ | .ldED8 _ | .ldHD8 _ | .ldLD8 _ | .ldAD8 _ | .ldMhlD8 _ | .addAD8 _ => s.regs.pc + 2
  | .ldBcD16 _ _ | .ldDeD16 _ _ | .ldHlD16 _ _ | .ldSpD16 _ _ | .ldMa16Sp _ _ => s.regs.pc + 3
  | .nop | .ldMbcA | .incBc | .incB | .decB | .rlca | .addHlBc | .ldAMbc | .decBc | .incC | .decC | .rrca
  | .ldMdeA | .incDe | .incD | .decD | .rla | .addHlDe | .ldAMde | .decDe | .incE | .decE | .rra | .ldMhlIncA
  | .incHl | .incH | .decH | .daa | .addHlHl | .ldAMhlInc | .decHl | .incL | .decL | .ldMhlDecA | .incSp
  | .incMhl | .decMhl | .scf | .addHlSp | .ldAMhlDec | .decSp | .incA | .decA | .addAB | .addAC | .addAD
  | .addAE | .addAH | .addAL | .addAMhl | .addAA => s.regs.pc + 1

/-- The cycle count of an instruction, from the state it runs on (70_reset_and_hazards.md R165). -/
def cycleCount (i : Instr) (s : State) : Nat :=
  match i with
  | .nop | .incB | .incC | .incD | .incE | .incH | .incL | .incA | .decB | .decC | .decD | .decE | .decH | .decL
  | .decA | .rlca | .rla | .rrca | .rra | .daa | .scf | .addAB | .addAC | .addAD | .addAE | .addAH | .addAL
  | .addAA => 4
  | .ldBD8 _ | .ldCD8 _ | .ldDD8 _ | .ldED8 _ | .ldHD8 _ | .ldLD8 _ | .ldAD8 _ | .ldMbcA | .ldMdeA | .ldMhlIncA
  | .ldMhlDecA | .ldAMbc | .ldAMde | .ldAMhlInc | .ldAMhlDec | .incBc | .incDe | .incHl | .incSp | .decBc
  | .decDe | .decHl | .decSp | .addHlBc | .addHlDe | .addHlHl | .addHlSp | .addAMhl | .addAD8 _ => 8
  | .ldBcD16 _ _ | .ldDeD16 _ _ | .ldHlD16 _ _ | .ldSpD16 _ _ | .ldMhlD8 _ | .incMhl | .decMhl | .jr _ => 12
  | .ldMa16Sp _ _ => 20
  | .jrNz _ => if s.flag .z then 8 else 12
  | .jrZ _ => if s.flag .z then 12 else 8
  | .jrNc _ => if s.flag .c then 8 else 12
  | .jrC _ => if s.flag .c then 12 else 8

/-- The reads of an instruction's own bytes at PC and after, in address order, from the state it is fetched in (R35, R55). -/
def fetchReads (i : Instr) (s : State) : List BusTxn :=
  (List.range i.length).map fun k =>
    .read (s.regs.pc + BitVec.ofNat 16 k) (s.byteAt (s.regs.pc + BitVec.ofNat 16 k))

/-- The state the handler of the instruction at PC runs on: only the record of bus transactions differs (R80: the fetch
changes nothing else). -/
def fetchedState (i : Instr) (s : State) : State := { s with bus := fetchReads i s }

/-- The three bytes at PC and after: as many as the longest instruction has (R50). -/
def bytesAtPc (s : State) : List Byte :=
  [s.byteAt s.regs.pc, s.byteAt (s.regs.pc + 1), s.byteAt (s.regs.pc + 2)]

/-- A record of transactions replayed on a memory: every read is answered by the byte the memory then holds, every write is
performed before the next transaction (20_memory.md R31, R40). -/
def replay : List BusTxn → Memory → Option Memory
  | [], m => some m
  | .read a v :: ts, m => if Memory.get m a.toNat = v then replay ts m else none
  | .write a v :: ts, m => replay ts (Memory.set m a.toNat v)

/-- The transactions the memory sees in a history of events, oldest first: those of the core's steps and the other masters'
writes between them. -/
def busOfHistory : List Event → State → List BusTxn
  | [], _ => []
  | e :: es, s =>
    match applyEvent e s with
    | .next t =>
      (match e with
        | .step => t.bus
        | .busWrite a v => [.write a v]
        | .regWrite _ _ => []
        | .relaunch _ => []) ++ busOfHistory es t
    | .fault _ => []
    | .refused _ => []

/-- The usual end of a handler: PC moved on by the instruction's length, modulo 65536, and the count added to CYC (R15, R80). -/
def Advanced (s t : State) (len cycles : Nat) : Prop :=
  t.regs.pc.toNat = (s.regs.pc.toNat + len) % 65536 ∧ t.cyc = s.cyc + cycles

/-- No flag and no other bit of F changed. -/
def SameF (s t : State) : Prop := t.regs.f = s.regs.f

/-- F[3:0] unchanged (10_state.md R13). -/
def SameLowF (s t : State) : Prop := t.regs.f.toNat % 16 = s.regs.f.toNat % 16

/-- Every general register outside a list unchanged. -/
def SameRegsBut (rs : List Reg8) (s t : State) : Prop := ∀ r, r ∉ rs → t.get8 r = s.get8 r

/-- SP unchanged. -/
def SameSp (s t : State) : Prop := t.regs.sp = s.regs.sp

/-- Every byte of memory outside a list of addresses unchanged. -/
def SameMemoryBut (as : List Word) (s t : State) : Prop := ∀ a, a ∉ as → t.byteAt a = s.byteAt a

/-- The FAULT latch and the parameters unchanged. -/
def SameLatchAndParams (s t : State) : Prop := t.fault = s.fault ∧ t.params = s.params

/-- The condition of a JR cc on the flags (40_alu_primitives.md R79, 30_encoding.md R54). -/
def CondTaken (cc : Cond) (s : State) : Prop :=
  match cc with
  | .nz => s.flag .z = false
  | .z => s.flag .z = true
  | .nc => s.flag .c = false
  | .c => s.flag .c = true

/-- The effect of every form of ADD A on A and F, and on nothing else but PC and CYC (44_add.md R112 to R114,
40_alu_primitives.md R71). -/
def AddedToA (operand : Byte) (s t : State) : Prop :=
  (t.get8 .a).toNat = ((s.get8 .a).toNat + operand.toNat) % 256 ∧
    t.flag .z = decide ((t.get8 .a).toNat = 0) ∧ t.flag .n = false ∧
    t.flag .h = decide ((s.get8 .a).toNat % 16 + operand.toNat % 16 > 15) ∧
    t.flag .c = decide ((s.get8 .a).toNat + operand.toNat > 255) ∧ SameLowF s t ∧
    SameRegsBut [.a] s t ∧ SameSp s t ∧ SameMemoryBut [] s t ∧ SameLatchAndParams s t

/-- Two states that agree in everything an instruction can read: all but F[3:0] (10_state.md R11), CYC (R21) and the record of
bus transactions (log 4). -/
def SameButUnread (s u : State) : Prop :=
  (∀ r, u.get8 r = s.get8 r) ∧ (∀ fl, u.flag fl = s.flag fl) ∧ u.regs.sp = s.regs.sp ∧ u.regs.pc = s.regs.pc ∧
    u.mem = s.mem ∧ u.fault = s.fault ∧ u.params = s.params

/-- The high and the low register of an instruction's pair operand (10_state.md R16). -/
def pairHalves : Pair → Reg8 × Reg8
  | .bc => (.b, .c)
  | .de => (.d, .e)
  | .hl => (.h, .l)

/-- The high and the low field of a pair view (10_state.md R16). -/
def viewHalves : View → OutsideReg × OutsideReg
  | .af => (.reg8 .a, .f)
  | .bc => (.reg8 .b, .reg8 .c)
  | .de => (.reg8 .d, .reg8 .e)
  | .hl => (.reg8 .h, .reg8 .l)

/-- What a write to a field or view may show in: the field itself, the view it is a half of, the halves of a view. Every other
one is storage of its own (10_state.md R10, R11, R14 to R16). -/
def OutsideReg.shared : OutsideReg → List OutsideReg
  | .reg8 .a => [.reg8 .a, .view .af]
  | .f => [.f, .view .af]
  | .reg8 .b => [.reg8 .b, .view .bc]
  | .reg8 .c => [.reg8 .c, .view .bc]
  | .reg8 .d => [.reg8 .d, .view .de]
  | .reg8 .e => [.reg8 .e, .view .de]
  | .reg8 .h => [.reg8 .h, .view .hl]
  | .reg8 .l => [.reg8 .l, .view .hl]
  | .sp => [.sp]
  | .pc => [.pc]
  | .view p => [.view p, (viewHalves p).1, (viewHalves p).2]

/-- A 16-bit immediate as a number, from its bytes in stream order (30_encoding.md R55). -/
def imm16Number (params : Params) (b1 b2 : Byte) : Nat :=
  match params.imm16First with
  | .high => b1.toNat * 256 + b2.toNat
  | .low => b2.toNat * 256 + b1.toNat

/-- `JR_BASE` as a number (00_scope.md R3). -/
def jrBaseNumber (params : Params) : Nat :=
  match params.jrBase with
  | .zero => 0
  | .two => 2

/-- The target of a relative jump as a number, computed over the integers and reduced at the end (46_jumps.md R127). -/
def jrTargetNumber (params : Params) (pc : Word) (e8 : Int) : Int :=
  ((pc.toNat : Int) + (jrBaseNumber params : Int) + e8) % 65536

/-- The packed-BCD byte of a number below 100: the tens in the high nibble, the units in the low one (00_scope.md section 7). -/
def packedBcd (n : Nat) : Byte := BitVec.ofNat 8 (n / 10 * 16 + n % 10)

/-- The handler of one instruction run `n` times in a row. -/
def execTimes (i : Instr) : Nat → State → Host.Outcome State Fault Refusal
  | 0, s => .next s
  | n + 1, s =>
    match exec i s with
    | .next t => execTimes i n t
    | .fault f => .fault f
    | .refused r => .refused r

end Sys2Proof.Machine
end

