-- ==== Sys2Proof/Certificates/Slice0/Obligations.lean ====
section
/-! DEFINITION. The statements about the core, from the numbered rules of spec/. Where a clause rests on a choice of the model's own
(the record of bus transactions `State.bus`, log 4, for one), its docstring names the log entry. -/

open Sys2Proof Sys2Proof.Machine

/-! ## Encoding and decoding -/

/-- Decoding an encoded well-formed instruction gives it back, with every operand and whatever bytes follow (R50, R55 to R58). -/
def Obligations.DecodeInvertsEncode : Prop :=
  ∀ (i : Instr) (rest : List Byte), i.wellFormed = true → decode (encode i ++ rest) = .ok (i, rest)

/-- Every word the decoder accepts has one meaning: the bytes it consumed are the encoding of the well-formed instruction it
gives, and it consumed as many as the opcode byte's format says (R58, R60). -/
def Obligations.EncodeInvertsDecode : Prop :=
  ∀ (bytes rest : List Byte) (i : Instr), decode bytes = .ok (i, rest) →
    bytes = encode i ++ rest ∧ i.wellFormed = true ∧ (encode i).length = i.length

/-- Words written out from the spec's encodings decode to the instructions they stand for, one or more of every family. -/
def Obligations.WrittenOutWordsDecode : Prop :=
  decode [0x00] = .ok (.nop, []) ∧
  decode [0x01, 0x04, 0x02] = .ok (.ldBcD16 0x04 0x02, []) ∧
  decode [0x31, 0xFF, 0xFE] = .ok (.ldSpD16 0xFF 0xFE, []) ∧
  decode [0x06, 0x2A] = .ok (.ldBD8 0x2A, []) ∧
  decode [0x36, 0xFF] = .ok (.ldMhlD8 0xFF, []) ∧
  decode [0x22] = .ok (.ldMhlIncA, []) ∧
  decode [0x3A] = .ok (.ldAMhlDec, []) ∧
  decode [0x08, 0xC0, 0x10] = .ok (.ldMa16Sp 0xC0 0x10, []) ∧
  decode [0x1B] = .ok (.decDe, []) ∧
  decode [0x3C] = .ok (.incA, []) ∧
  decode [0x35] = .ok (.decMhl, []) ∧
  decode [0x39] = .ok (.addHlSp, []) ∧
  decode [0x87] = .ok (.addAA, []) ∧
  decode [0x1F] = .ok (.rra, []) ∧
  decode [0x18, 0xFB] = .ok (.jr (-5), []) ∧
  decode [0x38, 0x7F] = .ok (.jrC 127, []) ∧
  decode [0x27] = .ok (.daa, []) ∧
  decode [0x37, 0x76] = .ok (.scf, [0x76]) ∧
  decode [0xCB, 0x37] = .error (.noHandler 0xCB)

/-! ## The dispatch step, the fault latch and the launch -/

/-- The dispatch step (R80). From a state with FAULT clear, when the bytes at PC decode to an instruction the step is its handler
run on the whole instruction and on the state the fetch leaves, which differs in the model's record of bus transactions (log 4)
only, and CYC grows by the handler's count; that the operand bytes are read before exec and the count is added inside it is the
model's form (log 8); when the opcode byte has no handler the step latches NoHandler and changes nothing else but that record; when
FAULT is set there is no step. -/
def Obligations.StepFetchesDecodesAndRuns : Prop :=
  (∀ (s : State) (i : Instr) (rest : List Byte), s.fault = none → decode (bytesAtPc s) = .ok (i, rest) →
    step s = exec i (fetchedState i s) ∧ ∃ t, step s = .next t ∧ t.cyc = s.cyc + cycleCount i s) ∧
  (∀ s : State, s.fault = none → hasNoHandler (s.byteAt s.regs.pc) →
    step s = .next { s with
      fault := some (.noHandler (s.byteAt s.regs.pc) s.regs.pc),
      bus := [.read s.regs.pc (s.byteAt s.regs.pc)] }) ∧
  (∀ s : State, s.fault ≠ none → ∀ u, step s ≠ .next u)

/-- An opcode byte with no handler (R141): the step latches NoHandler(op, pc) and leaves every register, every flag, PC, the memory
and CYC as they were, and the core takes no further step. -/
def Obligations.UnhandledOpcodeLatchesFault : Prop :=
  ∀ s : State, s.fault = none → hasNoHandler (s.byteAt s.regs.pc) →
    ∃ t, step s = .next t ∧ t.fault = some (.noHandler (s.byteAt s.regs.pc) s.regs.pc) ∧
      t.regs = s.regs ∧ t.mem = s.mem ∧ t.cyc = s.cyc ∧ t.params = s.params ∧ ∀ u, step t ≠ .next u

/-- The FAULT latch (R22): a step sets it exactly when the opcode byte fetched has no handler,
to that byte and its address; while it is set the core takes no step, so that no step clears it. -/
def Obligations.FaultLatchIsSticky : Prop :=
  (∀ s t : State, step s = .next t → s.fault = none ∧
    (hasNoHandler (s.byteAt s.regs.pc) → t.fault = some (.noHandler (s.byteAt s.regs.pc) s.regs.pc)) ∧
    (¬ hasNoHandler (s.byteAt s.regs.pc) → t.fault = none)) ∧
  (∀ s : State, s.fault ≠ none → ∀ u, step s ≠ .next u)

/-- A latched fault in a run (log 7, the model's form of it): every step from a state with FAULT set answers that fault, and so does
every longer run. -/
def Obligations.LatchedFaultStopsEveryRun : Prop :=
  ∀ (s : State) (f : Fault) (n : Nat), s.fault = some f →
    step s = .fault f ∧ Host.Core.run Sys2Proof.core (n + 1) s = .fault f

/-- The launch (R160): the register file takes the values of RESET_STATE, whatever they are, CYC becomes 0, FAULT none, the memory
is what the bus holds; a reset of a machine that has run is a launch on the memory and the parameters it has (log 11, and log 13 if it
is latched); and the
first step fetches at
the PC that RESET_STATE gives (the model's record of bus transactions, log 4, shows the fetch). -/
def Obligations.LaunchTakesResetState : Prop :=
  ∀ (g : RegFile) (m : Memory) (p : Params) (s : State),
    (∀ x, outsideRead x (State.launch g m p) = outsideRead x (s.relaunch g)) ∧
    (State.launch g m p).regs = g ∧ (State.launch g m p).mem = m ∧ (State.launch g m p).params = p ∧
    (State.launch g m p).cyc = 0 ∧ (State.launch g m p).fault = none ∧
    s.relaunch g = State.launch g s.mem s.params ∧
    ∃ t, step (State.launch g m p) = .next t ∧ t.bus.head? = some (.read g.pc (Memory.get m g.pc.toNat))

/-- Every one of the 70 instructions, on every state and every operand, completes with FAULT and the parameters unchanged (R140). -/
def Obligations.EveryInstructionCompletes : Prop :=
  ∀ (i : Instr) (s : State), ∃ t, exec i s = .next t ∧ SameLatchAndParams s t

/-- The cycle counts (R165): each handler adds to CYC the count its row of the table gives, which is 4, 8, 12 or 20; an opcode
with no handler adds 0. -/
def Obligations.CycleCountsFollowTheTable : Prop :=
  (∀ (i : Instr) (s : State), ∃ t, exec i s = .next t ∧ t.cyc = s.cyc + cycleCount i s ∧
    (cycleCount i s = 4 ∨ cycleCount i s = 8 ∨ cycleCount i s = 12 ∨ cycleCount i s = 20)) ∧
  (∀ s : State, s.fault = none → hasNoHandler (s.byteAt s.regs.pc) → ∃ t, step s = .next t ∧ t.cyc = s.cyc)

/-- The PC after each instruction, by the spec's table: PC plus the length for the instructions that do not branch and the jumps
not taken, the target for the jumps taken. -/
def Obligations.NextPcFollowsTheTable : Prop :=
  ∀ (i : Instr) (s : State), ∃ t, exec i s = .next t ∧ t.regs.pc = nextPc i s

/-! ## Invariants -/

/-- The state right after reset, and every launch on a memory in canonical form, meets the invariant. -/
def Obligations.LaunchMeetsInvariant : Prop :=
  State.Inv State.reset ∧ ∀ (g : RegFile) (m : Memory) (p : Params), Memory.wf m → State.Inv (State.launch g m p)

/-- Every step keeps the invariant: the memory in canonical form, CYC a multiple of 4, and a latched fault naming a byte without a
handler that stands at PC. -/
def Obligations.StepKeepsInvariant : Prop :=
  ∀ s t : State, State.Inv s → step s = .next t → State.Inv t

/-- The memory stays in canonical form through every history of steps, accessor writes, other masters' writes and resets, and the
parameters the core was launched with stay as they are (that a reset keeps both is log 11, that the
other events may happen while FAULT is latched is logs 12 and 13). -/
def Obligations.HistoryKeepsMemoryCanonical : Prop :=
  ∀ (es : List Event) (s t : State), Memory.wf s.mem → runEvents es s = .next t →
    Memory.wf t.mem ∧ t.params = s.params

/-! ## The bus -/

/-- Memory consistency (R40): over every history, with other masters writing between the steps, the transactions on the bus,
replayed in order on the memory the history began with, answer every read of the core with the byte of the latest write, or the
byte that was there at the start, and end in the memory the history ends with (the record of transactions is log 4, that a reset in the history keeps the memory is
log 11, that events other than steps may happen while FAULT is latched is logs 12 and 13). -/
def Obligations.HistoryReplaysOnMemory : Prop :=
  ∀ (es : List Event) (s t : State), runEvents es s = .next t → replay (busOfHistory es s) s.mem = some t.mem

/-- The accesses of a step, in order and each exactly once (R35): the opcode byte at PC, the operand bytes, then the data
accesses the table lists for the instruction, on the model's record of bus transactions (log 4). -/
def Obligations.BusAccessesFollowTheTable : Prop :=
  ∀ (s : State) (i : Instr) (rest : List Byte), s.fault = none → decode (bytesAtPc s) = .ok (i, rest) →
    ∃ t, step s = .next t ∧ t.bus = fetchReads i s ++ dataAccesses i s

/-- A step depends on the memory only through the bytes it reads: on another memory that answers those reads alike, it makes
the same transactions (log 4) and leaves the same registers, latch and cycle count (R81). -/
def Obligations.StepDependsOnlyOnBytesRead : Prop :=
  ∀ s u t : State, u.regs = s.regs → u.params = s.params → u.cyc = s.cyc → u.fault = s.fault → step s = .next t →
    (∀ a v, BusTxn.read a v ∈ t.bus → u.byteAt a = v) →
    ∃ w, step u = .next w ∧ w.bus = t.bus ∧ w.regs = t.regs ∧ w.fault = t.fault ∧ w.cyc = t.cyc ∧ w.params = t.params

/-- A store is seen by the next fetch: LD (HL),d8 with HL at the byte after it is followed by the instruction whose opcode
byte it stored, whatever stood there before (R43; the record of transactions it starts with is log 4). -/
def Obligations.StoreIsSeenByNextFetch : Prop :=
  ∀ (s : State) (i : Instr), s.fault = none → s.byteAt s.regs.pc = 0x36 → s.getView .hl = s.regs.pc + 2 →
    decodeOpcode (s.byteAt (s.regs.pc + 1)) = some (.op i) →
    ∃ t, step s = .next t ∧ t.byteAt t.regs.pc = s.byteAt (s.regs.pc + 1) ∧
      step t = exec i { t with bus := [.read (s.regs.pc + 2) (s.byteAt (s.regs.pc + 1))] }

/-! ## Frames: what each instruction leaves unchanged -/

/-- Every general register an instruction is not listed as writing in the spec's table is unchanged, for all 70 instructions. -/
def Obligations.GeneralRegistersFrame : Prop :=
  ∀ (i : Instr) (s t : State), exec i s = .next t → SameRegsBut (regsWritten i) s t

/-- Flags are written one bit at a time (R13): every flag that an instruction does not write keeps its value, and F[3:0]
keeps its value in every instruction. -/
def Obligations.FlagsFrame : Prop :=
  ∀ (i : Instr) (s t : State), exec i s = .next t →
    (∀ fl, fl ∉ flagsWritten i → t.flag fl = s.flag fl) ∧ SameLowF s t

/-- Every byte of memory is unchanged but those at the addresses an instruction stores to, computed from the state it runs on;
an instruction that stores nothing leaves every byte unchanged. -/
def Obligations.MemoryFrame : Prop :=
  ∀ (i : Instr) (s t : State), exec i s = .next t → SameMemoryBut (storedAddresses i s) s t

/-- SP (R14): the instructions that do not write it leave it unchanged, and among those only ADD HL,SP and LD (a16),SP read it: every
other one has the same effect whatever SP holds; LD SP,d16 does not read the old value, INC SP and DEC SP do. -/
def Obligations.StackPointerReadersAndWriters : Prop :=
  (∀ (i : Instr) (s t : State), exec i s = .next t → writesSp i = false → SameSp s t) ∧
  (∀ (i : Instr) (s t : State) (v : Word), exec i s = .next t → writesSp i = false → i ≠ .addHlSp →
    (∀ b1 b2, i ≠ .ldMa16Sp b1 b2) → exec i (s.setSp v) = .next (t.setSp v)) ∧
  (∀ (b1 b2 : Byte) (s : State) (v : Word), ∃ t, exec (.ldSpD16 b1 b2) s = .next t ∧
    exec (.ldSpD16 b1 b2) (s.setSp v) = .next t)

/-- F (R11): all eight bits are stored and read back; and no instruction reads F[3:0], CYC or the record of bus transactions (log 4): two
states that agree in everything else still do after a step, and gain the same cycles. -/
def Obligations.LowNibbleOfFIsNeverRead : Prop :=
  (∀ (v : Nat) (s : State), v < 256 → outsideRead .f (outsideWrite .f v s) = v) ∧
  (∀ s u t : State, SameButUnread s u → step s = .next t →
    ∃ w, step u = .next w ∧ SameButUnread t w ∧ w.bus = t.bus ∧ w.cyc + s.cyc = t.cyc + u.cyc)

/-- The parameters (R3, R4; fields of the model's state, log 3) govern the relative jumps and the 16-bit immediates only: an
instruction of format OP or OP_D8 has the same effect under all of them, a relative jump depends on JR_BASE alone, an instruction
with a 16-bit immediate on IMM16_FIRST alone. -/
def Obligations.ParametersGovernJumpsAndImmediates : Prop :=
  ∀ (i : Instr) (s t : State) (p : Params), exec i s = .next t →
    (i.length ≠ 3 → (∀ e8, i ≠ .jr e8 ∧ ∀ cc, i ≠ Instr.jrCc e8 cc) →
      exec i { s with params := p } = .next { t with params := p }) ∧
    ((∃ e8, i = .jr e8 ∨ ∃ cc, i = Instr.jrCc e8 cc) → p.jrBase = s.params.jrBase →
      exec i { s with params := p } = .next { t with params := p }) ∧
    (i.length = 3 → p.imm16First = s.params.imm16First →
      exec i { s with params := p } = .next { t with params := p })

/-! ## The accessor surface -/

/-- The accessor surface (R19, R24, R10). A getter gives the register the instructions use. A write to a field or view stores the
value modulo 256 or 65536, and a read returns the stored value; every field and view that shares no storage with the one written
reads as before. That the write changes no memory byte, neither CYC nor FAULT nor the parameters, also while FAULT is set, is the
model's choice (log 12). -/
def Obligations.AccessorWritesTruncate : Prop :=
  (∀ s : State, (∀ r, outsideRead (.reg8 r) s = (s.get8 r).toNat) ∧ outsideRead .f s = s.regs.f.toNat ∧
    outsideRead .sp s = s.regs.sp.toNat ∧ outsideRead .pc s = s.regs.pc.toNat ∧
    ∀ p, outsideRead (.view p) s = (s.getView p).toNat) ∧
  ∀ (x : OutsideReg) (v : Nat) (s : State),
    outsideRead x (outsideWrite x v s) = v % 2 ^ x.width ∧
    (∀ y, y ∉ x.shared → outsideRead y (outsideWrite x v s) = outsideRead y s) ∧
    (outsideWrite x v s).mem = s.mem ∧ (outsideWrite x v s).cyc = s.cyc ∧ SameLatchAndParams s (outsideWrite x v s)

/-- The pair views (R16, R17, R18): a view reads as its two fields, the first-named in bits 15:8; a write to a view stores both
halves, all eight bits of F with AF, and reads back; a write to one half shows in the view beside the old other half. -/
def Obligations.PairViewsRoundTrip : Prop :=
  ∀ (p : View) (v : Nat) (s : State),
    outsideRead (.view p) s = outsideRead (viewHalves p).1 s * 256 + outsideRead (viewHalves p).2 s ∧
    outsideRead (.view p) (outsideWrite (.view p) v s) = v % 65536 ∧
    outsideRead (viewHalves p).1 (outsideWrite (.view p) v s) = v / 256 % 256 ∧
    outsideRead (viewHalves p).2 (outsideWrite (.view p) v s) = v % 256 ∧
    outsideRead (.view p) (outsideWrite (viewHalves p).1 v s) = v % 256 * 256 + outsideRead (viewHalves p).2 s ∧
    outsideRead (.view p) (outsideWrite (viewHalves p).2 v s) = outsideRead (viewHalves p).1 s * 256 + v % 256

/-- The four flag predicates (R12): each tests one bit of F. -/
def Obligations.FlagPredicatesTestOneBit : Prop :=
  ∀ s : State,
    (s.flag .z = decide (s.regs.f.toNat / 128 % 2 = 1)) ∧ (s.flag .n = decide (s.regs.f.toNat / 64 % 2 = 1)) ∧
    (s.flag .h = decide (s.regs.f.toNat / 32 % 2 = 1)) ∧ (s.flag .c = decide (s.regs.f.toNat / 16 % 2 = 1))

/-! ## The instructions -/

/-- NOP (R82): PC + 1 modulo 65536, 4 cycles, nothing else. -/
def Obligations.NopOnlyAdvances : Prop :=
  ∀ s : State, ∃ t, exec .nop s = .next t ∧ Advanced s t 1 4 ∧ SameF s t ∧ SameRegsBut [] s t ∧ SameSp s t ∧
    SameMemoryBut [] s t ∧ SameLatchAndParams s t ∧ encode .nop = [0x00]

/-- LD rr,d16 (R85): the pair holds the immediate assembled under IMM16_FIRST; no flag. -/
def Obligations.LoadPairImmediate : Prop :=
  ∀ (p : Pair) (b1 b2 : Byte) (s : State), ∃ t, exec (Instr.ldRrD16 b1 b2 p) s = .next t ∧
    (t.get8 (pairHalves p).1).toNat = imm16Number s.params b1 b2 / 256 ∧
    (t.get8 (pairHalves p).2).toNat = imm16Number s.params b1 b2 % 256 ∧
    (t.getView p.view).toNat = imm16Number s.params b1 b2 ∧
    Advanced s t 3 12 ∧ SameF s t ∧ SameRegsBut [(pairHalves p).1, (pairHalves p).2] s t ∧ SameSp s t ∧
    SameMemoryBut [] s t ∧ SameLatchAndParams s t ∧
    encode (Instr.ldRrD16 b1 b2 p) = [BitVec.ofNat 8 (0x01 + 16 * p.selector.toNat), b1, b2]

/-- LD SP,d16 (R86). -/
def Obligations.LoadStackPointerImmediate : Prop :=
  ∀ (b1 b2 : Byte) (s : State), ∃ t, exec (.ldSpD16 b1 b2) s = .next t ∧
    t.regs.sp.toNat = imm16Number s.params b1 b2 ∧
    Advanced s t 3 12 ∧ SameF s t ∧ SameRegsBut [] s t ∧ SameMemoryBut [] s t ∧ SameLatchAndParams s t ∧
    encode (.ldSpD16 b1 b2) = [0x31, b1, b2]

/-- LD r,d8 (R87). -/
def Obligations.LoadRegisterImmediate : Prop :=
  ∀ (r : Reg8) (d8 : Byte) (s : State), ∃ t, exec (Instr.ldRD8 d8 r) s = .next t ∧
    t.get8 r = d8 ∧
    Advanced s t 2 8 ∧ SameF s t ∧ SameRegsBut [r] s t ∧ SameSp s t ∧ SameMemoryBut [] s t ∧ SameLatchAndParams s t ∧
    encode (Instr.ldRD8 d8 r) = [BitVec.ofNat 8 (0x06 + 8 * r.selector.toNat), d8]

/-- LD (HL),d8 (R88), LD (BC),A (R89) and LD (DE),A (R90): one byte stored at the pair's value, no register but PC written. -/
def Obligations.StoresThroughPair : Prop :=
  ∀ (d8 : Byte) (s : State),
    (∃ t, exec (.ldMhlD8 d8) s = .next t ∧ t.byteAt (s.getView .hl) = d8 ∧ Advanced s t 2 12 ∧ SameF s t ∧
      SameRegsBut [] s t ∧ SameSp s t ∧ SameMemoryBut [s.getView .hl] s t ∧ SameLatchAndParams s t ∧
      encode (.ldMhlD8 d8) = [0x36, d8]) ∧
    (∃ t, exec .ldMbcA s = .next t ∧ t.byteAt (s.getView .bc) = s.get8 .a ∧ Advanced s t 1 8 ∧ SameF s t ∧
      SameRegsBut [] s t ∧ SameSp s t ∧ SameMemoryBut [s.getView .bc] s t ∧ SameLatchAndParams s t ∧
      encode .ldMbcA = [0x02]) ∧
    (∃ t, exec .ldMdeA s = .next t ∧ t.byteAt (s.getView .de) = s.get8 .a ∧ Advanced s t 1 8 ∧ SameF s t ∧
      SameRegsBut [] s t ∧ SameSp s t ∧ SameMemoryBut [s.getView .de] s t ∧ SameLatchAndParams s t ∧
      encode .ldMdeA = [0x12])

/-- LD (HL+),A (R91) and LD (HL-),A (R92): A stored at HL on entry, then HL moved by one, modulo 65536. -/
def Obligations.StoresThenMovesHl : Prop :=
  ∀ s : State,
    (∃ t, exec .ldMhlIncA s = .next t ∧ t.byteAt (s.getView .hl) = s.get8 .a ∧
      (t.getView .hl).toNat = ((s.getView .hl).toNat + 1) % 65536 ∧ Advanced s t 1 8 ∧ SameF s t ∧
      SameRegsBut [.h, .l] s t ∧ SameSp s t ∧ SameMemoryBut [s.getView .hl] s t ∧ SameLatchAndParams s t ∧
      encode .ldMhlIncA = [0x22]) ∧
    (∃ t, exec .ldMhlDecA s = .next t ∧ t.byteAt (s.getView .hl) = s.get8 .a ∧
      (t.getView .hl).toNat = ((s.getView .hl).toNat + 65535) % 65536 ∧ Advanced s t 1 8 ∧ SameF s t ∧
      SameRegsBut [.h, .l] s t ∧ SameSp s t ∧ SameMemoryBut [s.getView .hl] s t ∧ SameLatchAndParams s t ∧
      encode .ldMhlDecA = [0x32])

/-- LD A,(BC) (R93) and LD A,(DE) (R94). -/
def Obligations.LoadsAThroughPair : Prop :=
  ∀ s : State,
    (∃ t, exec .ldAMbc s = .next t ∧ t.get8 .a = s.byteAt (s.getView .bc) ∧ Advanced s t 1 8 ∧ SameF s t ∧
      SameRegsBut [.a] s t ∧ SameSp s t ∧ SameMemoryBut [] s t ∧ SameLatchAndParams s t ∧ encode .ldAMbc = [0x0A]) ∧
    (∃ t, exec .ldAMde s = .next t ∧ t.get8 .a = s.byteAt (s.getView .de) ∧ Advanced s t 1 8 ∧ SameF s t ∧
      SameRegsBut [.a] s t ∧ SameSp s t ∧ SameMemoryBut [] s t ∧ SameLatchAndParams s t ∧ encode .ldAMde = [0x1A])

/-- LD A,(HL+) (R95) and LD A,(HL-) (R96): A from HL on entry, then HL moved by one, modulo 65536. -/
def Obligations.LoadsAThenMovesHl : Prop :=
  ∀ s : State,
    (∃ t, exec .ldAMhlInc s = .next t ∧ t.get8 .a = s.byteAt (s.getView .hl) ∧
      (t.getView .hl).toNat = ((s.getView .hl).toNat + 1) % 65536 ∧ Advanced s t 1 8 ∧ SameF s t ∧
      SameRegsBut [.a, .h, .l] s t ∧ SameSp s t ∧ SameMemoryBut [] s t ∧ SameLatchAndParams s t ∧
      encode .ldAMhlInc = [0x2A]) ∧
    (∃ t, exec .ldAMhlDec s = .next t ∧ t.get8 .a = s.byteAt (s.getView .hl) ∧
      (t.getView .hl).toNat = ((s.getView .hl).toNat + 65535) % 65536 ∧ Advanced s t 1 8 ∧ SameF s t ∧
      SameRegsBut [.a, .h, .l] s t ∧ SameSp s t ∧ SameMemoryBut [] s t ∧ SameLatchAndParams s t ∧
      encode .ldAMhlDec = [0x3A])

/-- LD (a16),SP (R97): SP's low byte at a16 and its high byte, unmasked, at a16 + 1 modulo 65536, where a16 is the immediate
assembled under IMM16_FIRST. -/
def Obligations.StoresStackPointer : Prop :=
  ∀ (b1 b2 : Byte) (s : State), ∃ t, exec (.ldMa16Sp b1 b2) s = .next t ∧
    (imm16 s.params b1 b2).toNat = imm16Number s.params b1 b2 ∧
    (imm16 s.params b1 b2 + 1).toNat = (imm16Number s.params b1 b2 + 1) % 65536 ∧
    (t.byteAt (imm16 s.params b1 b2)).toNat = s.regs.sp.toNat % 256 ∧
    (t.byteAt (imm16 s.params b1 b2 + 1)).toNat = s.regs.sp.toNat / 256 ∧
    Advanced s t 3 20 ∧ SameF s t ∧ SameRegsBut [] s t ∧ SameSp s t ∧
    SameMemoryBut [imm16 s.params b1 b2, imm16 s.params b1 b2 + 1] s t ∧ SameLatchAndParams s t ∧
    encode (.ldMa16Sp b1 b2) = [0x08, b1, b2]

/-- INC rr (R100) and DEC rr (R102): the pair plus or minus one, modulo 65536; no flag. -/
def Obligations.StepsRegisterPair : Prop :=
  ∀ (p : Pair) (s : State),
    (∃ t, exec (Instr.incRr p) s = .next t ∧ (t.getView p.view).toNat = ((s.getView p.view).toNat + 1) % 65536 ∧
      Advanced s t 1 8 ∧ SameF s t ∧ SameRegsBut [(pairHalves p).1, (pairHalves p).2] s t ∧ SameSp s t ∧
      SameMemoryBut [] s t ∧ SameLatchAndParams s t ∧
      encode (Instr.incRr p) = [BitVec.ofNat 8 (0x03 + 16 * p.selector.toNat)]) ∧
    (∃ t, exec (Instr.decRr p) s = .next t ∧ (t.getView p.view).toNat = ((s.getView p.view).toNat + 65535) % 65536 ∧
      Advanced s t 1 8 ∧ SameF s t ∧ SameRegsBut [(pairHalves p).1, (pairHalves p).2] s t ∧ SameSp s t ∧
      SameMemoryBut [] s t ∧ SameLatchAndParams s t ∧
      encode (Instr.decRr p) = [BitVec.ofNat 8 (0x0B + 16 * p.selector.toNat)])

/-- INC SP (R101) and DEC SP (R103). -/
def Obligations.StepsStackPointer : Prop :=
  ∀ s : State,
    (∃ t, exec .incSp s = .next t ∧ t.regs.sp.toNat = (s.regs.sp.toNat + 1) % 65536 ∧ Advanced s t 1 8 ∧ SameF s t ∧
      SameRegsBut [] s t ∧ SameMemoryBut [] s t ∧ SameLatchAndParams s t ∧ encode .incSp = [0x33]) ∧
    (∃ t, exec .decSp s = .next t ∧ t.regs.sp.toNat = (s.regs.sp.toNat + 65535) % 65536 ∧ Advanced s t 1 8 ∧ SameF s t ∧
      SameRegsBut [] s t ∧ SameMemoryBut [] s t ∧ SameLatchAndParams s t ∧ encode .decSp = [0x3B])

/-- INC r (R104): the register plus one modulo 256; Z, N, H by Add8; C and F[3:0] unaffected. -/
def Obligations.IncrementsRegister : Prop :=
  ∀ (r : Reg8) (s : State), ∃ t, exec (Instr.incR r) s = .next t ∧
    (t.get8 r).toNat = ((s.get8 r).toNat + 1) % 256 ∧
    t.flag .z = decide ((t.get8 r).toNat = 0) ∧ t.flag .n = false ∧
    t.flag .h = decide ((s.get8 r).toNat % 16 = 15) ∧ t.flag .c = s.flag .c ∧ SameLowF s t ∧
    Advanced s t 1 4 ∧ SameRegsBut [r] s t ∧ SameSp s t ∧ SameMemoryBut [] s t ∧ SameLatchAndParams s t ∧
    encode (Instr.incR r) = [BitVec.ofNat 8 (0x04 + 8 * r.selector.toNat)]

/-- DEC r (R106): the register minus one modulo 256; Z, N, H by Sub8; C and F[3:0] unaffected. -/
def Obligations.DecrementsRegister : Prop :=
  ∀ (r : Reg8) (s : State), ∃ t, exec (Instr.decR r) s = .next t ∧
    (t.get8 r).toNat = ((s.get8 r).toNat + 255) % 256 ∧
    t.flag .z = decide ((t.get8 r).toNat = 0) ∧ t.flag .n = true ∧
    t.flag .h = decide ((s.get8 r).toNat % 16 = 0) ∧ t.flag .c = s.flag .c ∧ SameLowF s t ∧
    Advanced s t 1 4 ∧ SameRegsBut [r] s t ∧ SameSp s t ∧ SameMemoryBut [] s t ∧ SameLatchAndParams s t ∧
    encode (Instr.decR r) = [BitVec.ofNat 8 (0x05 + 8 * r.selector.toNat)]

/-- INC (HL) (R105) and DEC (HL) (R107): the byte at HL plus or minus one, with the flags of INC r and DEC r; HL unchanged. (Their
two transactions are in ByteAtHlIsReadThenWritten.) -/
def Obligations.StepsByteAtHl : Prop :=
  ∀ s : State,
    (∃ t, exec .incMhl s = .next t ∧
      (t.byteAt (s.getView .hl)).toNat = ((s.byteAt (s.getView .hl)).toNat + 1) % 256 ∧
      t.flag .z = decide ((t.byteAt (s.getView .hl)).toNat = 0) ∧ t.flag .n = false ∧
      t.flag .h = decide ((s.byteAt (s.getView .hl)).toNat % 16 = 15) ∧ t.flag .c = s.flag .c ∧ SameLowF s t ∧
      Advanced s t 1 12 ∧ SameRegsBut [] s t ∧ SameSp s t ∧ SameMemoryBut [s.getView .hl] s t ∧ SameLatchAndParams s t ∧
      encode .incMhl = [0x34]) ∧
    (∃ t, exec .decMhl s = .next t ∧
      (t.byteAt (s.getView .hl)).toNat = ((s.byteAt (s.getView .hl)).toNat + 255) % 256 ∧
      t.flag .z = decide ((t.byteAt (s.getView .hl)).toNat = 0) ∧ t.flag .n = true ∧
      t.flag .h = decide ((s.byteAt (s.getView .hl)).toNat % 16 = 0) ∧ t.flag .c = s.flag .c ∧ SameLowF s t ∧
      Advanced s t 1 12 ∧ SameRegsBut [] s t ∧ SameSp s t ∧ SameMemoryBut [s.getView .hl] s t ∧ SameLatchAndParams s t ∧
      encode .decMhl = [0x35])

/-- ADD HL,rr (R110) and ADD HL,SP (R111): the exact sum modulo 65536, H the carry out of bit 11, C the carry out of bit 15, both from
the operands on entry; Z and F[3:0] unaffected. -/
def Obligations.AddsToHl : Prop :=
  ∀ (p : Pair) (s : State),
    (∃ t, exec (Instr.addHlRr p) s = .next t ∧
      (t.getView .hl).toNat = ((s.getView .hl).toNat + (s.getView p.view).toNat) % 65536 ∧
      t.flag .z = s.flag .z ∧ t.flag .n = false ∧
      t.flag .h = decide ((s.getView .hl).toNat % 4096 + (s.getView p.view).toNat % 4096 > 4095) ∧
      t.flag .c = decide ((s.getView .hl).toNat + (s.getView p.view).toNat > 65535) ∧ SameLowF s t ∧
      Advanced s t 1 8 ∧ SameRegsBut [.h, .l] s t ∧ SameSp s t ∧ SameMemoryBut [] s t ∧ SameLatchAndParams s t ∧
      encode (Instr.addHlRr p) = [BitVec.ofNat 8 (0x09 + 16 * p.selector.toNat)]) ∧
    (∃ t, exec .addHlSp s = .next t ∧
      (t.getView .hl).toNat = ((s.getView .hl).toNat + s.regs.sp.toNat) % 65536 ∧
      t.flag .z = s.flag .z ∧ t.flag .n = false ∧
      t.flag .h = decide ((s.getView .hl).toNat % 4096 + s.regs.sp.toNat % 4096 > 4095) ∧
      t.flag .c = decide ((s.getView .hl).toNat + s.regs.sp.toNat > 65535) ∧ SameLowF s t ∧
      Advanced s t 1 8 ∧ SameRegsBut [.h, .l] s t ∧ SameSp s t ∧ SameMemoryBut [] s t ∧ SameLatchAndParams s t ∧
      encode .addHlSp = [0x39])

/-- ADD A,r (R112), ADD A,(HL) (R113) and ADD A,d8 (R114): the sum modulo 256 and all four flags by AddWithCarryOut. -/
def Obligations.AddsToA : Prop :=
  ∀ s : State,
    (∀ r, ∃ t, exec (Instr.addAR r) s = .next t ∧ AddedToA (s.get8 r) s t ∧ Advanced s t 1 4 ∧
      encode (Instr.addAR r) = [BitVec.ofNat 8 (0x80 + r.selector.toNat)]) ∧
    (∃ t, exec .addAMhl s = .next t ∧ AddedToA (s.byteAt (s.getView .hl)) s t ∧ Advanced s t 1 8 ∧
      encode .addAMhl = [0x86]) ∧
    (∀ d8, ∃ t, exec (.addAD8 d8) s = .next t ∧ AddedToA d8 s t ∧ Advanced s t 2 8 ∧ encode (.addAD8 d8) = [0xC6, d8])

/-- RLCA (R120) and RRCA (R122): A rotated by one bit, the bit rotated out in C; Z from the result; N and H cleared. -/
def Obligations.CircularRotatesOfA : Prop :=
  ∀ s : State,
    (∃ t, exec .rlca s = .next t ∧
      (t.get8 .a).toNat = (s.get8 .a).toNat % 128 * 2 + (s.get8 .a).toNat / 128 ∧
      t.flag .z = decide ((t.get8 .a).toNat = 0) ∧ t.flag .n = false ∧ t.flag .h = false ∧
      t.flag .c = decide ((s.get8 .a).toNat / 128 = 1) ∧ SameLowF s t ∧
      Advanced s t 1 4 ∧ SameRegsBut [.a] s t ∧ SameSp s t ∧ SameMemoryBut [] s t ∧ SameLatchAndParams s t ∧
      encode .rlca = [0x07]) ∧
    (∃ t, exec .rrca s = .next t ∧
      (t.get8 .a).toNat = (s.get8 .a).toNat / 2 + (s.get8 .a).toNat % 2 * 128 ∧
      t.flag .z = decide ((t.get8 .a).toNat = 0) ∧ t.flag .n = false ∧ t.flag .h = false ∧
      t.flag .c = decide ((s.get8 .a).toNat % 2 = 1) ∧ SameLowF s t ∧
      Advanced s t 1 4 ∧ SameRegsBut [.a] s t ∧ SameSp s t ∧ SameMemoryBut [] s t ∧ SameLatchAndParams s t ∧
      encode .rrca = [0x0F])

/-- RLA (R121) and RRA (R123): A rotated by one bit through the C flag, the old C flag shifted in. -/
def Obligations.RotatesOfAThroughCarry : Prop :=
  ∀ s : State,
    (∃ t, exec .rla s = .next t ∧
      (t.get8 .a).toNat = (s.get8 .a).toNat % 128 * 2 + (if s.flag .c then 1 else 0) ∧
      t.flag .z = decide ((t.get8 .a).toNat = 0) ∧ t.flag .n = false ∧ t.flag .h = false ∧
      t.flag .c = decide ((s.get8 .a).toNat / 128 = 1) ∧ SameLowF s t ∧
      Advanced s t 1 4 ∧ SameRegsBut [.a] s t ∧ SameSp s t ∧ SameMemoryBut [] s t ∧ SameLatchAndParams s t ∧
      encode .rla = [0x17]) ∧
    (∃ t, exec .rra s = .next t ∧
      (t.get8 .a).toNat = (s.get8 .a).toNat / 2 + (if s.flag .c then 128 else 0) ∧
      t.flag .z = decide ((t.get8 .a).toNat = 0) ∧ t.flag .n = false ∧ t.flag .h = false ∧
      t.flag .c = decide ((s.get8 .a).toNat % 2 = 1) ∧ SameLowF s t ∧
      Advanced s t 1 4 ∧ SameRegsBut [.a] s t ∧ SameSp s t ∧ SameMemoryBut [] s t ∧ SameLatchAndParams s t ∧
      encode .rra = [0x1F])

/-- JR e8 (R125, R127): PC becomes PC + JR_BASE + e8 modulo 65536 for every displacement (one outside its byte's range,
which no bytes encode, included: log 9); 12 cycles; no flag. -/
def Obligations.JumpsRelative : Prop :=
  ∀ (e8 : Int) (s : State), ∃ t, exec (.jr e8) s = .next t ∧
    (t.regs.pc.toNat : Int) = jrTargetNumber s.params s.regs.pc e8 ∧ t.cyc = s.cyc + 12 ∧
    SameF s t ∧ SameRegsBut [] s t ∧ SameSp s t ∧ SameMemoryBut [] s t ∧ SameLatchAndParams s t ∧
    encode (.jr e8) = [0x18, BitVec.ofInt 8 e8]

/-- JR cc,e8 (R126, R79): taken when the condition holds on F, to the target of JR e8 in 12 cycles; otherwise PC + 2 in 8 cycles,
whatever JR_BASE is; the flags are only read. For every displacement, one outside its byte's range, which no bytes encode, included
(log 9). -/
def Obligations.JumpsOnCondition : Prop :=
  ∀ (cc : Cond) (e8 : Int) (s : State), ∃ t, exec (Instr.jrCc e8 cc) s = .next t ∧
    (CondTaken cc s →
      (t.regs.pc.toNat : Int) = jrTargetNumber s.params s.regs.pc e8 ∧ t.cyc = s.cyc + 12) ∧
    (¬ CondTaken cc s → Advanced s t 2 8) ∧
    SameF s t ∧ SameRegsBut [] s t ∧ SameSp s t ∧ SameMemoryBut [] s t ∧ SameLatchAndParams s t ∧
    encode (Instr.jrCc e8 cc) = [BitVec.ofNat 8 (0x20 + 8 * cc.selector.toNat), BitVec.ofInt 8 e8]

/-- An assembler's displacement reaches its target (R59): with e8 = target − (address of JR) − JR_BASE in −128 to +127, JR and every
JR cc whose condition holds jump to the target. -/
def Obligations.AssembledDisplacementReachesTarget : Prop :=
  ∀ (s : State) (target : Word) (e8 : Int),
    e8 = (target.toNat : Int) - (s.regs.pc.toNat : Int) - (jrBaseNumber s.params : Int) → DisplacementFits e8 →
    (∃ t, exec (.jr e8) s = .next t ∧ t.regs.pc = target) ∧
    ∀ cc, condHolds cc s.regs.f = true → ∃ t, exec (Instr.jrCc e8 cc) s = .next t ∧ t.regs.pc = target

/-- DAA (R130): both tests of the addition branch on A as it was on entry; Z from the final A, H cleared, N kept, C set or
kept and never cleared. -/
def Obligations.DecimalAdjusts : Prop :=
  ∀ s : State, ∃ t, exec .daa s = .next t ∧
    (s.flag .n = false →
      (t.get8 .a).toNat = ((s.get8 .a).toNat +
        (if s.flag .h = true ∨ (s.get8 .a).toNat % 16 > 9 then 6 else 0) +
        (if s.flag .c = true ∨ (s.get8 .a).toNat > 0x99 then 0x60 else 0)) % 256 ∧
      t.flag .c = (s.flag .c || decide ((s.get8 .a).toNat > 0x99))) ∧
    (s.flag .n = true →
      (t.get8 .a).toNat = ((s.get8 .a).toNat + 256 -
        ((if s.flag .h = true then 6 else 0) + (if s.flag .c = true then 0x60 else 0))) % 256 ∧
      t.flag .c = s.flag .c) ∧
    t.flag .z = decide ((t.get8 .a).toNat = 0) ∧ t.flag .h = false ∧ t.flag .n = s.flag .n ∧ SameLowF s t ∧
    Advanced s t 1 4 ∧ SameRegsBut [.a] s t ∧ SameSp s t ∧ SameMemoryBut [] s t ∧ SameLatchAndParams s t ∧
    encode .daa = [0x27]

/-- SCF (R131): C set, N and H cleared, Z and F[3:0] kept. -/
def Obligations.SetsCarry : Prop :=
  ∀ s : State, ∃ t, exec .scf s = .next t ∧
    t.flag .c = true ∧ t.flag .n = false ∧ t.flag .h = false ∧ t.flag .z = s.flag .z ∧ SameLowF s t ∧
    Advanced s t 1 4 ∧ SameRegsBut [] s t ∧ SameSp s t ∧ SameMemoryBut [] s t ∧ SameLatchAndParams s t ∧
    encode .scf = [0x37]

/-! ## Laws over several instructions -/

/-- (R130 with R70, R71 and R73.) ADD A then DAA is decimal addition: for packed-BCD A and operand, any form of ADD A, A ends as the packed-BCD sum modulo 100
and C tells whether the sum reached 100; INC A then DAA, with C clear, likewise adds one, and DEC A then DAA, with C clear,
subtracts one from a number above 0. -/
def Obligations.DecimalAdjustGivesDecimalSum : Prop :=
  ∀ (s : State) (x y : Nat), x < 100 → y < 100 → s.get8 .a = packedBcd x →
    (∀ i, ((∃ r, i = Instr.addAR r ∧ s.get8 r = packedBcd y) ∨
          (i = .addAMhl ∧ s.byteAt (s.getView .hl) = packedBcd y) ∨ i = .addAD8 (packedBcd y)) →
      ∃ t u, exec i s = .next t ∧ exec .daa t = .next u ∧
        u.get8 .a = packedBcd ((x + y) % 100) ∧ u.flag .c = decide (x + y ≥ 100)) ∧
    (s.flag .c = false → ∃ t u, exec .incA s = .next t ∧ exec .daa t = .next u ∧
      u.get8 .a = packedBcd ((x + 1) % 100) ∧ u.flag .c = decide (x = 99)) ∧
    (s.flag .c = false → 0 < x → ∃ t u, exec .decA s = .next t ∧ exec .daa t = .next u ∧
      u.get8 .a = packedBcd (x - 1) ∧ u.flag .c = false)

/-- The circular rotates (R77): eight RLCA, and eight RRCA, give back A; one RRCA undoes one RLCA; nine RLA, and nine RRA, give back A
and the C flag. -/
def Obligations.RotatesAreCyclic : Prop :=
  ∀ s : State,
    (∀ i, i = .rlca ∨ i = .rrca → ∃ t, execTimes i 8 s = .next t ∧ t.get8 .a = s.get8 .a) ∧
    (∃ t u, exec .rlca s = .next t ∧ exec .rrca t = .next u ∧ u.get8 .a = s.get8 .a) ∧
    (∀ i, i = .rla ∨ i = .rra →
      ∃ t, execTimes i 9 s = .next t ∧ t.get8 .a = s.get8 .a ∧ t.flag .c = s.flag .c)

/-- A safe run of n steps ends in a state with FAULT clear, and its CYC has grown by at least 4 and at most 20 a step (R81). -/
def Obligations.SafeRunsBoundCycles : Prop :=
  ∀ (n : Nat) (s : State), SafeRun n s →
    ∃ t, Host.Core.run Sys2Proof.core n s = .next t ∧ t.fault = none ∧ s.cyc + 4 * n ≤ t.cyc ∧ t.cyc ≤ s.cyc + 20 * n

/-- INC (HL) and DEC (HL) make one read and then one write, both at HL: the byte that was there, then the byte that is there
afterwards (R105, R107), on the model's record of bus transactions (log 4). -/
def Obligations.ByteAtHlIsReadThenWritten : Prop :=
  ∀ (i : Instr) (s : State), i = .incMhl ∨ i = .decMhl →
    ∃ t, exec i s = .next t ∧
      t.bus = s.bus ++ [.read (s.getView .hl) (s.byteAt (s.getView .hl)), .write (s.getView .hl) (t.byteAt (s.getView .hl))]
end

