-- ==== Sys2Proof/Laws/Dispatch.lean ====
section
/-! SUPPORT. Each instruction's handler as the shared operation it is made of: one equation per constructor, so that a proof about
an instruction rewrites with it and then with the operation's own equation (Laws/Handlers.lean). -/

namespace Sys2Proof.Machine

theorem exec_nop (s : State) : exec .nop s = execNop s := rfl
theorem exec_ldBcD16 (b1 b2 : Byte) (s : State) : exec (.ldBcD16 b1 b2) s = loadPairImm .bc b1 b2 s := rfl
theorem exec_ldMbcA (s : State) : exec .ldMbcA s = storeA .bc s := rfl
theorem exec_incBc (s : State) : exec .incBc s = stepPair .bc (· + 1) s := rfl
theorem exec_incB (s : State) : exec .incB s = updateReg (add8 · 1) .b s := rfl
theorem exec_decB (s : State) : exec .decB s = updateReg (sub8 · 1) .b s := rfl
theorem exec_ldBD8 (d8 : Byte) (s : State) : exec (.ldBD8 d8) s = loadRegImm .b d8 s := rfl
theorem exec_rlca (s : State) : exec .rlca s = rotateA (rotateLeft (s.get8 .a) false false) s := rfl
theorem exec_ldMa16Sp (b1 b2 : Byte) (s : State) : exec (.ldMa16Sp b1 b2) s = execLdMa16Sp b1 b2 s := rfl
theorem exec_addHlBc (s : State) : exec .addHlBc s = addToHl (s.getView .bc) s := rfl
theorem exec_ldAMbc (s : State) : exec .ldAMbc s = loadA .bc s := rfl
theorem exec_decBc (s : State) : exec .decBc s = stepPair .bc (· - 1) s := rfl
theorem exec_incC (s : State) : exec .incC s = updateReg (add8 · 1) .c s := rfl
theorem exec_decC (s : State) : exec .decC s = updateReg (sub8 · 1) .c s := rfl
theorem exec_ldCD8 (d8 : Byte) (s : State) : exec (.ldCD8 d8) s = loadRegImm .c d8 s := rfl
theorem exec_rrca (s : State) : exec .rrca s = rotateA (rotateRight (s.get8 .a) false false) s := rfl
theorem exec_ldDeD16 (b1 b2 : Byte) (s : State) : exec (.ldDeD16 b1 b2) s = loadPairImm .de b1 b2 s := rfl
theorem exec_ldMdeA (s : State) : exec .ldMdeA s = storeA .de s := rfl
theorem exec_incDe (s : State) : exec .incDe s = stepPair .de (· + 1) s := rfl
theorem exec_incD (s : State) : exec .incD s = updateReg (add8 · 1) .d s := rfl
theorem exec_decD (s : State) : exec .decD s = updateReg (sub8 · 1) .d s := rfl
theorem exec_ldDD8 (d8 : Byte) (s : State) : exec (.ldDD8 d8) s = loadRegImm .d d8 s := rfl
theorem exec_rla (s : State) : exec .rla s = rotateA (rotateLeft (s.get8 .a) (s.flag .c) true) s := rfl
theorem exec_jr (e8 : Int) (s : State) : exec (.jr e8) s = execJr e8 s := rfl
theorem exec_addHlDe (s : State) : exec .addHlDe s = addToHl (s.getView .de) s := rfl
theorem exec_ldAMde (s : State) : exec .ldAMde s = loadA .de s := rfl
theorem exec_decDe (s : State) : exec .decDe s = stepPair .de (· - 1) s := rfl
theorem exec_incE (s : State) : exec .incE s = updateReg (add8 · 1) .e s := rfl
theorem exec_decE (s : State) : exec .decE s = updateReg (sub8 · 1) .e s := rfl
theorem exec_ldED8 (d8 : Byte) (s : State) : exec (.ldED8 d8) s = loadRegImm .e d8 s := rfl
theorem exec_rra (s : State) : exec .rra s = rotateA (rotateRight (s.get8 .a) (s.flag .c) true) s := rfl
theorem exec_jrNz (e8 : Int) (s : State) : exec (.jrNz e8) s = jumpIf .nz e8 s := rfl
theorem exec_ldHlD16 (b1 b2 : Byte) (s : State) : exec (.ldHlD16 b1 b2) s = loadPairImm .hl b1 b2 s := rfl
theorem exec_ldMhlIncA (s : State) : exec .ldMhlIncA s = storeAMoveHl (· + 1) s := rfl
theorem exec_incHl (s : State) : exec .incHl s = stepPair .hl (· + 1) s := rfl
theorem exec_incH (s : State) : exec .incH s = updateReg (add8 · 1) .h s := rfl
theorem exec_decH (s : State) : exec .decH s = updateReg (sub8 · 1) .h s := rfl
theorem exec_ldHD8 (d8 : Byte) (s : State) : exec (.ldHD8 d8) s = loadRegImm .h d8 s := rfl
theorem exec_daa (s : State) : exec .daa s = execDaa s := rfl
theorem exec_jrZ (e8 : Int) (s : State) : exec (.jrZ e8) s = jumpIf .z e8 s := rfl
theorem exec_addHlHl (s : State) : exec .addHlHl s = addToHl (s.getView .hl) s := rfl
theorem exec_ldAMhlInc (s : State) : exec .ldAMhlInc s = loadAMoveHl (· + 1) s := rfl
theorem exec_decHl (s : State) : exec .decHl s = stepPair .hl (· - 1) s := rfl
theorem exec_incL (s : State) : exec .incL s = updateReg (add8 · 1) .l s := rfl
theorem exec_decL (s : State) : exec .decL s = updateReg (sub8 · 1) .l s := rfl
theorem exec_ldLD8 (d8 : Byte) (s : State) : exec (.ldLD8 d8) s = loadRegImm .l d8 s := rfl
theorem exec_jrNc (e8 : Int) (s : State) : exec (.jrNc e8) s = jumpIf .nc e8 s := rfl
theorem exec_ldSpD16 (b1 b2 : Byte) (s : State) : exec (.ldSpD16 b1 b2) s = execLdSpD16 b1 b2 s := rfl
theorem exec_ldMhlDecA (s : State) : exec .ldMhlDecA s = storeAMoveHl (· - 1) s := rfl
theorem exec_incSp (s : State) : exec .incSp s = stepSp (· + 1) s := rfl
theorem exec_incMhl (s : State) : exec .incMhl s = updateMhl (add8 · 1) s := rfl
theorem exec_decMhl (s : State) : exec .decMhl s = updateMhl (sub8 · 1) s := rfl
theorem exec_ldMhlD8 (d8 : Byte) (s : State) : exec (.ldMhlD8 d8) s = execLdMhlD8 d8 s := rfl
theorem exec_scf (s : State) : exec .scf s = execScf s := rfl
theorem exec_jrC (e8 : Int) (s : State) : exec (.jrC e8) s = jumpIf .c e8 s := rfl
theorem exec_addHlSp (s : State) : exec .addHlSp s = addToHl s.regs.sp s := rfl
theorem exec_ldAMhlDec (s : State) : exec .ldAMhlDec s = loadAMoveHl (· - 1) s := rfl
theorem exec_decSp (s : State) : exec .decSp s = stepSp (· - 1) s := rfl
theorem exec_incA (s : State) : exec .incA s = updateReg (add8 · 1) .a s := rfl
theorem exec_decA (s : State) : exec .decA s = updateReg (sub8 · 1) .a s := rfl
theorem exec_ldAD8 (d8 : Byte) (s : State) : exec (.ldAD8 d8) s = loadRegImm .a d8 s := rfl
theorem exec_addAB (s : State) : exec .addAB s = ret 4 ((addToA (s.get8 .b) s).advance 1) := rfl
theorem exec_addAC (s : State) : exec .addAC s = ret 4 ((addToA (s.get8 .c) s).advance 1) := rfl
theorem exec_addAD (s : State) : exec .addAD s = ret 4 ((addToA (s.get8 .d) s).advance 1) := rfl
theorem exec_addAE (s : State) : exec .addAE s = ret 4 ((addToA (s.get8 .e) s).advance 1) := rfl
theorem exec_addAH (s : State) : exec .addAH s = ret 4 ((addToA (s.get8 .h) s).advance 1) := rfl
theorem exec_addAL (s : State) : exec .addAL s = ret 4 ((addToA (s.get8 .l) s).advance 1) := rfl
theorem exec_addAMhl (s : State) :
    exec .addAMhl s = ret 8 ((addToA (s.byteAt (s.getView .hl)) (memRead (s.getView .hl) s).2).advance 1) := rfl
theorem exec_addAA (s : State) : exec .addAA s = ret 4 ((addToA (s.get8 .a) s).advance 1) := rfl
theorem exec_addAD8 (d8 : Byte) (s : State) : exec (.addAD8 d8) s = ret 8 ((addToA d8 s).advance 2) := rfl

end Sys2Proof.Machine
end

