-- ==== Sys2Proof/Laws/Registers.lean ====
section
/-! SUPPORT. The laws of the register file and of F: a read after a write, register by register (10_state.md R13, R16 to R19). -/

namespace Sys2Proof.Machine

theorem concatBytes_toNat (hi lo : Byte) : (concatBytes hi lo).toNat = hi.toNat * 256 + lo.toNat := by
  simp only [concatBytes, BitVec.toNat_append]
  rw [← Nat.shiftLeft_add_eq_or_of_lt lo.isLt, Nat.shiftLeft_eq]

theorem highByte_toNat (v : Word) : (highByte v).toNat = v.toNat / 256 := by
  have := v.isLt
  simp only [highByte, BitVec.extractLsb'_toNat, Nat.shiftRight_eq_div_pow]
  omega

theorem lowByte_toNat (v : Word) : (lowByte v).toNat = v.toNat % 256 := by
  simp [lowByte, BitVec.extractLsb'_toNat]

@[simp] theorem highByte_concatBytes (hi lo : Byte) : highByte (concatBytes hi lo) = hi := by
  apply BitVec.eq_of_toNat_eq
  have := lo.isLt
  rw [highByte_toNat, concatBytes_toNat]; omega

@[simp] theorem lowByte_concatBytes (hi lo : Byte) : lowByte (concatBytes hi lo) = lo := by
  apply BitVec.eq_of_toNat_eq
  have := lo.isLt
  rw [lowByte_toNat, concatBytes_toNat]; omega

@[simp] theorem concatBytes_highByte_lowByte (v : Word) : concatBytes (highByte v) (lowByte v) = v := by
  apply BitVec.eq_of_toNat_eq
  rw [concatBytes_toNat, highByte_toNat, lowByte_toNat]; omega

theorem RegFile.get8_set8 (g : RegFile) (r q : Reg8) (v : Byte) :
    (g.set8 r v).get8 q = if q = r then v else g.get8 q := by
  cases r <;> cases q <;> rfl

@[simp] theorem RegFile.get8_set8_self (g : RegFile) (r : Reg8) (v : Byte) : (g.set8 r v).get8 r = v := by
  cases r <;> rfl

@[simp] theorem RegFile.set8_f (g : RegFile) (r : Reg8) (v : Byte) : (g.set8 r v).f = g.f := by cases r <;> rfl
@[simp] theorem RegFile.set8_sp (g : RegFile) (r : Reg8) (v : Byte) : (g.set8 r v).sp = g.sp := by cases r <;> rfl
@[simp] theorem RegFile.set8_pc (g : RegFile) (r : Reg8) (v : Byte) : (g.set8 r v).pc = g.pc := by cases r <;> rfl

@[simp] theorem RegFile.getView_setView (g : RegFile) (p : View) (v : Word) : (g.setView p v).getView p = v := by
  cases p <;> simp [RegFile.setView, RegFile.getView]

@[simp] theorem RegFile.setView_sp (g : RegFile) (p : View) (v : Word) : (g.setView p v).sp = g.sp := by cases p <;> rfl
@[simp] theorem RegFile.setView_pc (g : RegFile) (p : View) (v : Word) : (g.setView p v).pc = g.pc := by cases p <;> rfl
@[simp] theorem RegFile.setView_f (g : RegFile) (p : Pair) (v : Word) : (g.setView p.view v).f = g.f := by cases p <;> rfl

theorem RegFile.get8_setAf (g : RegFile) (r : Reg8) (v : Word) :
    (g.setView .af v).get8 r = if r = .a then highByte v else g.get8 r := by
  cases r <;> rfl

theorem RegFile.get8_setBc (g : RegFile) (r : Reg8) (v : Word) :
    (g.setView .bc v).get8 r = if r = .b then highByte v else if r = .c then lowByte v else g.get8 r := by
  cases r <;> rfl

theorem RegFile.get8_setDe (g : RegFile) (r : Reg8) (v : Word) :
    (g.setView .de v).get8 r = if r = .d then highByte v else if r = .e then lowByte v else g.get8 r := by
  cases r <;> rfl

theorem RegFile.get8_setHl (g : RegFile) (r : Reg8) (v : Word) :
    (g.setView .hl v).get8 r = if r = .h then highByte v else if r = .l then lowByte v else g.get8 r := by
  cases r <;> rfl

/-! Registers that no 8-bit, pair or flag write reaches. -/

@[simp] theorem RegFile.get8_withF (g : RegFile) (v : Byte) (r : Reg8) : ({ g with f := v } : RegFile).get8 r = g.get8 r := by
  cases r <;> rfl
@[simp] theorem RegFile.get8_withSp (g : RegFile) (v : Word) (r : Reg8) : ({ g with sp := v } : RegFile).get8 r = g.get8 r := by
  cases r <;> rfl
@[simp] theorem RegFile.get8_withPc (g : RegFile) (v : Word) (r : Reg8) : ({ g with pc := v } : RegFile).get8 r = g.get8 r := by
  cases r <;> rfl

/-! The flags of F. -/

theorem getFlag_setFlag (fl k : Flag) (v : Bool) (f : Byte) :
    getFlag k (setFlag fl v f) = if k = fl then v else getFlag k f := by
  cases v <;> cases fl <;> cases k <;> simp [getFlag, setFlag, flagBit]

@[simp] theorem getFlag_writeFlag_self (fl : Flag) (v : Option Bool) (f : Byte) :
    getFlag fl (writeFlag fl v f) = v.getD (getFlag fl f) := by
  cases v <;> simp [writeFlag, getFlag_setFlag]

theorem getFlag_writeFlag_ne {fl k : Flag} (h : k ≠ fl) (v : Option Bool) (f : Byte) :
    getFlag k (writeFlag fl v f) = getFlag k f := by
  cases v <;> simp [writeFlag, getFlag_setFlag, h]

/-- A flag after the flag outputs are written back: the output where there is one, the old flag where there is none (R13). -/
theorem getFlag_writeFlags (k : Flag) (o : FlagOut) (f : Byte) :
    getFlag k (writeFlags o f) = (flagOut o k).getD (getFlag k f) := by
  cases k <;> simp [writeFlags, flagOut, getFlag_writeFlag_ne]

theorem setFlag_lowNibble (fl : Flag) (v : Bool) (f : Byte) : setFlag fl v f &&& 0x0F = f &&& 0x0F := by
  apply BitVec.eq_of_getLsbD_eq
  intro i hi
  have : i = 0 ∨ i = 1 ∨ i = 2 ∨ i = 3 ∨ i = 4 ∨ i = 5 ∨ i = 6 ∨ i = 7 := by omega
  cases v <;> cases fl <;> rcases this with rfl | rfl | rfl | rfl | rfl | rfl | rfl | rfl <;>
    simp [setFlag, flagBit]

theorem writeFlag_lowNibble (fl : Flag) (v : Option Bool) (f : Byte) : writeFlag fl v f &&& 0x0F = f &&& 0x0F := by
  cases v with
  | none => rfl
  | some b => exact setFlag_lowNibble fl b f

theorem lowNibble_toNat (f : Byte) : (f &&& 0x0F).toNat = f.toNat % 16 := by
  rw [BitVec.toNat_and]
  exact Nat.and_two_pow_sub_one_eq_mod f.toNat 4

/-- Writing flags back leaves F[3:0] as it was (R13). -/
theorem writeFlags_lowNibble (o : FlagOut) (f : Byte) : writeFlags o f &&& 0x0F = f &&& 0x0F := by
  simp only [writeFlags, writeFlag_lowNibble]

theorem writeFlags_mod16 (o : FlagOut) (f : Byte) : (writeFlags o f).toNat % 16 = f.toNat % 16 := by
  rw [← lowNibble_toNat, ← lowNibble_toNat, writeFlags_lowNibble]

end Sys2Proof.Machine
end

