-- ==== Sys2Proof/Laws/State.lean ====
section
/-! SUPPORT. What each update of the state does to each field, true by unfolding once; no later proof unfolds a record update. -/

namespace Sys2Proof.Machine

variable (s : State)

@[simp] theorem State.set8_regs (r : Reg8) (v : Byte) : (s.set8 r v).regs = s.regs.set8 r v := rfl
@[simp] theorem State.set8_mem (r : Reg8) (v : Byte) : (s.set8 r v).mem = s.mem := rfl
@[simp] theorem State.set8_cyc (r : Reg8) (v : Byte) : (s.set8 r v).cyc = s.cyc := rfl
@[simp] theorem State.set8_fault (r : Reg8) (v : Byte) : (s.set8 r v).fault = s.fault := rfl
@[simp] theorem State.set8_bus (r : Reg8) (v : Byte) : (s.set8 r v).bus = s.bus := rfl
@[simp] theorem State.set8_params (r : Reg8) (v : Byte) : (s.set8 r v).params = s.params := rfl

@[simp] theorem State.setView_regs (p : View) (v : Word) : (s.setView p v).regs = s.regs.setView p v := rfl
@[simp] theorem State.setView_mem (p : View) (v : Word) : (s.setView p v).mem = s.mem := rfl
@[simp] theorem State.setView_cyc (p : View) (v : Word) : (s.setView p v).cyc = s.cyc := rfl
@[simp] theorem State.setView_fault (p : View) (v : Word) : (s.setView p v).fault = s.fault := rfl
@[simp] theorem State.setView_bus (p : View) (v : Word) : (s.setView p v).bus = s.bus := rfl
@[simp] theorem State.setView_params (p : View) (v : Word) : (s.setView p v).params = s.params := rfl

@[simp] theorem State.setSp_regs (v : Word) : (s.setSp v).regs = { s.regs with sp := v } := rfl
@[simp] theorem State.setSp_mem (v : Word) : (s.setSp v).mem = s.mem := rfl
@[simp] theorem State.setSp_cyc (v : Word) : (s.setSp v).cyc = s.cyc := rfl
@[simp] theorem State.setSp_fault (v : Word) : (s.setSp v).fault = s.fault := rfl
@[simp] theorem State.setSp_bus (v : Word) : (s.setSp v).bus = s.bus := rfl
@[simp] theorem State.setSp_params (v : Word) : (s.setSp v).params = s.params := rfl

@[simp] theorem State.setPc_regs (v : Word) : (s.setPc v).regs = { s.regs with pc := v } := rfl
@[simp] theorem State.setPc_mem (v : Word) : (s.setPc v).mem = s.mem := rfl
@[simp] theorem State.setPc_cyc (v : Word) : (s.setPc v).cyc = s.cyc := rfl
@[simp] theorem State.setPc_fault (v : Word) : (s.setPc v).fault = s.fault := rfl
@[simp] theorem State.setPc_bus (v : Word) : (s.setPc v).bus = s.bus := rfl
@[simp] theorem State.setPc_params (v : Word) : (s.setPc v).params = s.params := rfl

@[simp] theorem State.advance_regs (len : Word) : (s.advance len).regs = { s.regs with pc := s.regs.pc + len } := rfl
@[simp] theorem State.advance_mem (len : Word) : (s.advance len).mem = s.mem := rfl
@[simp] theorem State.advance_cyc (len : Word) : (s.advance len).cyc = s.cyc := rfl
@[simp] theorem State.advance_fault (len : Word) : (s.advance len).fault = s.fault := rfl
@[simp] theorem State.advance_bus (len : Word) : (s.advance len).bus = s.bus := rfl
@[simp] theorem State.advance_params (len : Word) : (s.advance len).params = s.params := rfl

@[simp] theorem State.setFlags_regs (o : FlagOut) : (s.setFlags o).regs = { s.regs with f := writeFlags o s.regs.f } := rfl
@[simp] theorem State.setFlags_mem (o : FlagOut) : (s.setFlags o).mem = s.mem := rfl
@[simp] theorem State.setFlags_cyc (o : FlagOut) : (s.setFlags o).cyc = s.cyc := rfl
@[simp] theorem State.setFlags_fault (o : FlagOut) : (s.setFlags o).fault = s.fault := rfl
@[simp] theorem State.setFlags_bus (o : FlagOut) : (s.setFlags o).bus = s.bus := rfl
@[simp] theorem State.setFlags_params (o : FlagOut) : (s.setFlags o).params = s.params := rfl

@[simp] theorem State.raise_regs (f : Fault) : (s.raise f).regs = s.regs := rfl
@[simp] theorem State.raise_mem (f : Fault) : (s.raise f).mem = s.mem := rfl
@[simp] theorem State.raise_cyc (f : Fault) : (s.raise f).cyc = s.cyc := rfl
@[simp] theorem State.raise_fault (f : Fault) : (s.raise f).fault = some f := rfl
@[simp] theorem State.raise_bus (f : Fault) : (s.raise f).bus = s.bus := rfl
@[simp] theorem State.raise_params (f : Fault) : (s.raise f).params = s.params := rfl

@[simp] theorem memWrite_regs (a : Word) (v : Byte) : (memWrite a v s).regs = s.regs := rfl
@[simp] theorem memWrite_mem (a : Word) (v : Byte) : (memWrite a v s).mem = Memory.set s.mem a.toNat v := rfl
@[simp] theorem memWrite_cyc (a : Word) (v : Byte) : (memWrite a v s).cyc = s.cyc := rfl
@[simp] theorem memWrite_fault (a : Word) (v : Byte) : (memWrite a v s).fault = s.fault := rfl
@[simp] theorem memWrite_bus (a : Word) (v : Byte) : (memWrite a v s).bus = s.bus ++ [.write a v] := rfl
@[simp] theorem memWrite_params (a : Word) (v : Byte) : (memWrite a v s).params = s.params := rfl

@[simp] theorem memRead_value (a : Word) : (memRead a s).1 = s.byteAt a := rfl
@[simp] theorem memRead_regs (a : Word) : (memRead a s).2.regs = s.regs := rfl
@[simp] theorem memRead_mem (a : Word) : (memRead a s).2.mem = s.mem := rfl
@[simp] theorem memRead_cyc (a : Word) : (memRead a s).2.cyc = s.cyc := rfl
@[simp] theorem memRead_fault (a : Word) : (memRead a s).2.fault = s.fault := rfl
@[simp] theorem memRead_bus (a : Word) : (memRead a s).2.bus = s.bus ++ [.read a (s.byteAt a)] := rfl
@[simp] theorem memRead_params (a : Word) : (memRead a s).2.params = s.params := rfl

/-! The launch and the reset (70_reset_and_hazards.md R160). -/

@[simp] theorem State.launch_regs (g : RegFile) (m : Memory) (p : Params) : (State.launch g m p).regs = g := rfl
@[simp] theorem State.launch_mem (g : RegFile) (m : Memory) (p : Params) : (State.launch g m p).mem = m := rfl
@[simp] theorem State.launch_cyc (g : RegFile) (m : Memory) (p : Params) : (State.launch g m p).cyc = 0 := rfl
@[simp] theorem State.launch_fault (g : RegFile) (m : Memory) (p : Params) : (State.launch g m p).fault = none := rfl
@[simp] theorem State.launch_bus (g : RegFile) (m : Memory) (p : Params) : (State.launch g m p).bus = [] := rfl
@[simp] theorem State.launch_params (g : RegFile) (m : Memory) (p : Params) : (State.launch g m p).params = p := rfl

@[simp] theorem State.relaunch_regs (g : RegFile) : (s.relaunch g).regs = g := rfl
@[simp] theorem State.relaunch_mem (g : RegFile) : (s.relaunch g).mem = s.mem := rfl
@[simp] theorem State.relaunch_cyc (g : RegFile) : (s.relaunch g).cyc = 0 := rfl
@[simp] theorem State.relaunch_fault (g : RegFile) : (s.relaunch g).fault = none := rfl
@[simp] theorem State.relaunch_bus (g : RegFile) : (s.relaunch g).bus = [] := rfl
@[simp] theorem State.relaunch_params (g : RegFile) : (s.relaunch g).params = s.params := rfl

/-! The reads of registers, views, flags and bytes depend on one field each. -/

@[simp] theorem State.get8_eq (r : Reg8) : s.get8 r = s.regs.get8 r := rfl

@[simp] theorem State.getView_eq (p : View) : s.getView p = s.regs.getView p := rfl

@[simp] theorem State.flag_eq (fl : Flag) : s.flag fl = getFlag fl s.regs.f := rfl

theorem State.byteAt_congr {s t : State} (h : t.mem = s.mem) (a : Word) : t.byteAt a = s.byteAt a := by
  unfold State.byteAt; rw [h]

end Sys2Proof.Machine
end

