-- ==== Sys2Proof/Laws/Handlers.lean ====
section
/-! SUPPORT. One equation for each shared handler operation: everything it does to the state, field by field, so that a proof
about an instruction rewrites with it instead of unfolding the handler. -/

namespace Sys2Proof.Machine

theorem ret_eq_next {n : Byte} {s t : State} : ret n s = .next t ↔ t = { s with cyc := s.cyc + n.toNat } := by
  unfold ret
  constructor
  · rintro ⟨⟩; rfl
  · rintro rfl; rfl

theorem execNop_eq (s : State) :
    execNop s = .next { s with regs := { s.regs with pc := s.regs.pc + 1 }, cyc := s.cyc + 4 } := rfl

theorem loadPairImm_eq (p : Pair) (b1 b2 : Byte) (s : State) :
    loadPairImm p b1 b2 s = .next { s with
      regs := { s.regs.setView p.view (imm16 s.params b1 b2) with pc := s.regs.pc + 3 }, cyc := s.cyc + 12 } := by
  cases p <;> rfl

theorem execLdSpD16_eq (b1 b2 : Byte) (s : State) :
    execLdSpD16 b1 b2 s = .next { s with
      regs := { s.regs with sp := imm16 s.params b1 b2, pc := s.regs.pc + 3 }, cyc := s.cyc + 12 } := rfl

theorem loadRegImm_eq (r : Reg8) (d8 : Byte) (s : State) :
    loadRegImm r d8 s = .next { s with regs := { s.regs.set8 r d8 with pc := s.regs.pc + 2 }, cyc := s.cyc + 8 } := by
  cases r <;> rfl

theorem execLdMhlD8_eq (d8 : Byte) (s : State) :
    execLdMhlD8 d8 s = .next { memWrite (s.getView .hl) d8 s with
      regs := { s.regs with pc := s.regs.pc + 2 }, cyc := s.cyc + 12 } := rfl

theorem storeA_eq (p : Pair) (s : State) :
    storeA p s = .next { memWrite (s.getView p.view) s.regs.a s with
      regs := { s.regs with pc := s.regs.pc + 1 }, cyc := s.cyc + 8 } := rfl

theorem storeAMoveHl_eq (move : Word → Word) (s : State) :
    storeAMoveHl move s = .next { memWrite (s.getView .hl) s.regs.a s with
      regs := { s.regs.setView .hl (move (s.getView .hl)) with pc := s.regs.pc + 1 }, cyc := s.cyc + 8 } := rfl

theorem loadA_eq (p : Pair) (s : State) :
    loadA p s = .next { (memRead (s.getView p.view) s).2 with
      regs := { s.regs with a := s.byteAt (s.getView p.view), pc := s.regs.pc + 1 }, cyc := s.cyc + 8 } := rfl

theorem loadAMoveHl_eq (move : Word → Word) (s : State) :
    loadAMoveHl move s = .next { (memRead (s.getView .hl) s).2 with
      regs := { s.regs.setView .hl (move (s.getView .hl)) with a := s.byteAt (s.getView .hl), pc := s.regs.pc + 1 },
      cyc := s.cyc + 8 } := rfl

theorem execLdMa16Sp_eq (b1 b2 : Byte) (s : State) :
    execLdMa16Sp b1 b2 s = .next {
      memWrite (imm16 s.params b1 b2 + 1) (highByte s.regs.sp) (memWrite (imm16 s.params b1 b2) (lowByte s.regs.sp) s) with
      regs := { s.regs with pc := s.regs.pc + 3 }, cyc := s.cyc + 20 } := rfl

theorem stepPair_eq (p : Pair) (move : Word → Word) (s : State) :
    stepPair p move s = .next { s with
      regs := { s.regs.setView p.view (move (s.getView p.view)) with pc := s.regs.pc + 1 }, cyc := s.cyc + 8 } := by
  cases p <;> rfl

theorem stepSp_eq (move : Word → Word) (s : State) :
    stepSp move s = .next { s with
      regs := { s.regs with sp := move s.regs.sp, pc := s.regs.pc + 1 }, cyc := s.cyc + 8 } := rfl

theorem updateReg_eq (op : Byte → Alu8) (r : Reg8) (s : State) :
    updateReg op r s = .next { s with
      regs := { s.regs.set8 r (op (s.get8 r)).result with
        f := writeFlags (op (s.get8 r)).flags s.regs.f, pc := s.regs.pc + 1 }, cyc := s.cyc + 4 } := by
  cases r <;> rfl

theorem updateMhl_eq (op : Byte → Alu8) (s : State) :
    updateMhl op s = .next {
      memWrite (s.getView .hl) (op (s.byteAt (s.getView .hl))).result (memRead (s.getView .hl) s).2 with
      regs := { s.regs with f := writeFlags (op (s.byteAt (s.getView .hl))).flags s.regs.f, pc := s.regs.pc + 1 },
      cyc := s.cyc + 12 } := rfl

theorem addToHl_eq (operand : Word) (s : State) :
    addToHl operand s = .next { s with
      regs := { s.regs.setView .hl (add16 (s.getView .hl) operand).result with
        f := writeFlags (add16 (s.getView .hl) operand).flags s.regs.f, pc := s.regs.pc + 1 }, cyc := s.cyc + 8 } := rfl

theorem addToA_eq (operand : Byte) (s : State) :
    addToA operand s = { s with
      regs := { s.regs with
        a := (addWithCarryOut s.regs.a operand).result,
        f := writeFlags (addWithCarryOut s.regs.a operand).flags s.regs.f } } := rfl

theorem rotateA_eq (o : Alu8) (s : State) :
    rotateA o s = .next { s with
      regs := { s.regs with a := o.result, f := writeFlags o.flags s.regs.f, pc := s.regs.pc + 1 }, cyc := s.cyc + 4 } := rfl

theorem execJr_eq (e8 : Int) (s : State) :
    execJr e8 s = .next { s with
      regs := { s.regs with pc := jrTarget s.params s.regs.pc e8 }, cyc := s.cyc + 12 } := rfl

theorem jumpIf_eq (cc : Cond) (e8 : Int) (s : State) :
    jumpIf cc e8 s = .next { s with
      regs := { s.regs with
        pc := if condHolds cc s.regs.f then jrTarget s.params s.regs.pc e8 else s.regs.pc + 2 },
      cyc := s.cyc + if condHolds cc s.regs.f then 12 else 8 } := by
  unfold jumpIf
  split <;> rfl

theorem execDaa_eq (s : State) :
    execDaa s = rotateA (decimalAdjust s.regs.a (s.flag .n) (s.flag .h) (s.flag .c)) s := rfl

theorem execScf_eq (s : State) :
    execScf s = .next { s with
      regs := { s.regs with f := writeFlags setCarryFlags s.regs.f, pc := s.regs.pc + 1 }, cyc := s.cyc + 4 } := rfl

end Sys2Proof.Machine
end

