-- ==== Sys2Proof/Laws/Memory.lean ====
section
/-! SUPPORT. The laws of the byte memory: a read after a write, on every list of cells, and the canonical form, which every
memory operation keeps. -/

namespace Sys2Proof.Machine

theorem Memory.get_erase (m : Memory) (a b : Nat) :
    Memory.get (Memory.erase m a) b = if b = a then Memory.unlisted else Memory.get m b := by
  induction m with
  | nil => simp [Memory.erase, Memory.get]
  | cons x m ih =>
    obtain ⟨k, w⟩ := x
    by_cases hk : k = a
    · subst hk
      simp only [Memory.erase, if_true, ih, Memory.get]
      by_cases hb : b = k
      · simp [hb]
      · simp [hb, Ne.symm hb]
    · simp only [Memory.erase, hk, if_false, Memory.get, ih]
      by_cases hb : k = b
      · subst hb; simp [hk]
      · simp [hb]

theorem Memory.get_insert (m : Memory) (a b : Nat) (v : Byte) (h : Memory.erase m a = m) :
    Memory.get (Memory.insert m a v) b = if b = a then v else Memory.get m b := by
  induction m with
  | nil => simp [Memory.insert, Memory.get, eq_comm]
  | cons x m ih =>
    obtain ⟨k, w⟩ := x
    have hk : k ≠ a := by
      rintro rfl
      have := congrArg (fun l => Memory.get l k) h
      have hlen : ∀ m' : Memory, (Memory.erase m' k).length ≤ m'.length := by
        intro m'
        induction m' with
        | nil => simp [Memory.erase]
        | cons y m' ih' => obtain ⟨j, u⟩ := y; unfold Memory.erase; split <;> simp <;> omega
      have h2 := congrArg List.length h
      have h3 := hlen m
      simp [Memory.erase] at h2
      omega
    simp only [Memory.erase, hk, if_false, List.cons.injEq, true_and] at h
    unfold Memory.insert
    by_cases hlt : a < k
    · simp only [hlt, if_true, Memory.get]
      by_cases hb : b = a
      · simp [hb]
      · simp [hb, Ne.symm hb]
    · simp only [hlt, if_false, Memory.get, ih h]
      by_cases hb : k = b
      · subst hb; simp [hk]
      · simp [hb]

theorem Memory.erase_idem (m : Memory) (a : Nat) : Memory.erase (Memory.erase m a) a = Memory.erase m a := by
  induction m with
  | nil => rfl
  | cons x m ih =>
    obtain ⟨k, w⟩ := x
    by_cases hk : k = a <;> simp [Memory.erase, hk, ih]

/-- A read after a write: the written byte at its address, every other byte as before. -/
theorem Memory.get_set (m : Memory) (a b : Nat) (v : Byte) :
    Memory.get (Memory.set m a v) b = if b = a then v else Memory.get m b := by
  unfold Memory.set
  by_cases hv : v = Memory.unlisted
  · simp [hv, Memory.get_erase]
  · rw [if_neg hv, Memory.get_insert _ _ _ _ (Memory.erase_idem m a), Memory.get_erase]
    by_cases hb : b = a <;> simp [hb]

theorem Memory.mem_erase {m : Memory} {a : Nat} {x : Host.Cell} : x ∈ Memory.erase m a ↔ x ∈ m ∧ x.1 ≠ a := by
  induction m with
  | nil => simp [Memory.erase]
  | cons y m ih =>
    obtain ⟨k, w⟩ := y
    by_cases hk : k = a
    · simp only [Memory.erase, hk, if_true, ih, List.mem_cons]
      constructor
      · rintro ⟨h, h'⟩; exact ⟨.inr h, h'⟩
      · rintro ⟨rfl | h, h'⟩
        · exact absurd rfl h'
        · exact ⟨h, h'⟩
    · simp only [Memory.erase, hk, if_false, List.mem_cons, ih]
      constructor
      · rintro (rfl | ⟨h, h'⟩)
        · exact ⟨.inl rfl, hk⟩
        · exact ⟨.inr h, h'⟩
      · rintro ⟨rfl | h, h'⟩
        · exact .inl rfl
        · exact .inr ⟨h, h'⟩

theorem Memory.mem_insert {m : Memory} {a : Nat} {v : Byte} {x : Host.Cell} :
    x ∈ Memory.insert m a v ↔ x = (a, v) ∨ x ∈ m := by
  induction m with
  | nil => simp [Memory.insert]
  | cons y m ih =>
    obtain ⟨k, w⟩ := y
    by_cases h : a < k
    · simp [Memory.insert, h]
    · simp only [Memory.insert, h, if_false, List.mem_cons, ih]; tauto

theorem Memory.erase_pairwise {m : Memory} (a : Nat) (h : m.Pairwise (fun x y => x.1 < y.1)) :
    (Memory.erase m a).Pairwise (fun x y => x.1 < y.1) := by
  induction m with
  | nil => exact h
  | cons x m ih =>
    obtain ⟨k, w⟩ := x
    rw [List.pairwise_cons] at h
    by_cases hk : k = a
    · simpa [Memory.erase, hk] using ih h.2
    · simp only [Memory.erase, hk, if_false, List.pairwise_cons]
      exact ⟨fun y hy => h.1 y (Memory.mem_erase.1 hy).1, ih h.2⟩

theorem Memory.insert_pairwise {m : Memory} {a : Nat} {v : Byte} (h : m.Pairwise (fun x y => x.1 < y.1))
    (ha : ∀ x ∈ m, x.1 ≠ a) : (Memory.insert m a v).Pairwise (fun x y => x.1 < y.1) := by
  induction m with
  | nil => simp [Memory.insert]
  | cons x m ih =>
    obtain ⟨k, w⟩ := x
    have hcons := h
    rw [List.pairwise_cons] at h
    by_cases hlt : a < k
    · simp only [Memory.insert, hlt, if_true, List.pairwise_cons]
      refine ⟨fun y hy => ?_, List.pairwise_cons.1 hcons⟩
      rcases List.mem_cons.1 hy with rfl | hy
      · exact hlt
      · exact Nat.lt_trans hlt (h.1 y hy)
    · have hka : k ≠ a := ha (k, w) (List.mem_cons_self ..)
      simp only [Memory.insert, hlt, if_false, List.pairwise_cons]
      refine ⟨fun y hy => ?_, ih h.2 fun x hx => ha x (List.mem_cons_of_mem _ hx)⟩
      rcases Memory.mem_insert.1 hy with rfl | hy
      · show k < a; omega
      · exact h.1 y hy

/-- A byte write keeps the canonical form. -/
theorem Memory.set_wf {m : Memory} {a : Nat} {v : Byte} (h : Memory.wf m) (ha : a < 65536) :
    Memory.wf (Memory.set m a v) := by
  obtain ⟨hp, hv⟩ := h
  have he : ∀ x ∈ Memory.erase m a, x.1 < 65536 ∧ x.2 ≠ Memory.unlisted := fun x hx => hv x (Memory.mem_erase.1 hx).1
  unfold Memory.set
  by_cases hu : v = Memory.unlisted
  · rw [if_pos hu]; exact ⟨Memory.erase_pairwise a hp, he⟩
  · rw [if_neg hu]
    refine ⟨Memory.insert_pairwise (Memory.erase_pairwise a hp) fun x hx => (Memory.mem_erase.1 hx).2, fun x hx => ?_⟩
    rcases Memory.mem_insert.1 hx with rfl | hx
    · exact ⟨ha, hu⟩
    · exact he x hx

theorem memWrite_wf {s : State} (a : Word) (v : Byte) (h : Memory.wf s.mem) : Memory.wf (memWrite a v s).mem :=
  Memory.set_wf h a.isLt

theorem memRead_wf {s : State} (a : Word) (h : Memory.wf s.mem) : Memory.wf (memRead a s).2.mem := h

/-- Placing bytes keeps the canonical form. -/
theorem placeBytes_wf (vs : List Byte) {m : Memory} (a : Word) (h : Memory.wf m) : Memory.wf (placeBytes m a vs) := by
  induction vs generalizing m a with
  | nil => exact h
  | cons v vs ih => exact ih (a + 1) (Memory.set_wf h a.isLt)

theorem reset_memory_wf : Memory.wf State.reset.mem := by decide

/-- A byte read after a bus write. -/
theorem State.byteAt_memWrite (s : State) (a b : Word) (v : Byte) :
    (memWrite a v s).byteAt b = if b = a then v else s.byteAt b := by
  simp only [State.byteAt, memWrite, Memory.get_set, BitVec.toNat_inj]

@[simp] theorem State.byteAt_memRead (s : State) (a b : Word) : (memRead a s).2.byteAt b = s.byteAt b := rfl

end Sys2Proof.Machine
end

