-- ==== Sys2Proof/Laws/PerInstr.lean ====
section
/-! SUPPORT. A statement about every instruction as syntax, one lemma per constructor: an instruction's encoding has the length
30_encoding.md R50 and R58 give it. -/

namespace Sys2Proof.Laws

/-- The encoding is as long as the format says (R50, R58). -/
def EncodedLength.Statement (i : Instr) : Prop := (encode i).length = i.length

theorem EncodedLength.nop : EncodedLength.Statement (.nop) := rfl
theorem EncodedLength.ldBcD16 (b1 b2 : Byte) : EncodedLength.Statement (.ldBcD16 b1 b2) := rfl
theorem EncodedLength.ldMbcA : EncodedLength.Statement (.ldMbcA) := rfl
theorem EncodedLength.incBc : EncodedLength.Statement (.incBc) := rfl
theorem EncodedLength.incB : EncodedLength.Statement (.incB) := rfl
theorem EncodedLength.decB : EncodedLength.Statement (.decB) := rfl
theorem EncodedLength.ldBD8 (d8 : Byte) : EncodedLength.Statement (.ldBD8 d8) := rfl
theorem EncodedLength.rlca : EncodedLength.Statement (.rlca) := rfl
theorem EncodedLength.ldMa16Sp (b1 b2 : Byte) : EncodedLength.Statement (.ldMa16Sp b1 b2) := rfl
theorem EncodedLength.addHlBc : EncodedLength.Statement (.addHlBc) := rfl
theorem EncodedLength.ldAMbc : EncodedLength.Statement (.ldAMbc) := rfl
theorem EncodedLength.decBc : EncodedLength.Statement (.decBc) := rfl
theorem EncodedLength.incC : EncodedLength.Statement (.incC) := rfl
theorem EncodedLength.decC : EncodedLength.Statement (.decC) := rfl
theorem EncodedLength.ldCD8 (d8 : Byte) : EncodedLength.Statement (.ldCD8 d8) := rfl
theorem EncodedLength.rrca : EncodedLength.Statement (.rrca) := rfl
theorem EncodedLength.ldDeD16 (b1 b2 : Byte) : EncodedLength.Statement (.ldDeD16 b1 b2) := rfl
theorem EncodedLength.ldMdeA : EncodedLength.Statement (.ldMdeA) := rfl
theorem EncodedLength.incDe : EncodedLength.Statement (.incDe) := rfl
theorem EncodedLength.incD : EncodedLength.Statement (.incD) := rfl
theorem EncodedLength.decD : EncodedLength.Statement (.decD) := rfl
theorem EncodedLength.ldDD8 (d8 : Byte) : EncodedLength.Statement (.ldDD8 d8) := rfl
theorem EncodedLength.rla : EncodedLength.Statement (.rla) := rfl
theorem EncodedLength.jr (e8 : Int) : EncodedLength.Statement (.jr e8) := rfl
theorem EncodedLength.addHlDe : EncodedLength.Statement (.addHlDe) := rfl
theorem EncodedLength.ldAMde : EncodedLength.Statement (.ldAMde) := rfl
theorem EncodedLength.decDe : EncodedLength.Statement (.decDe) := rfl
theorem EncodedLength.incE : EncodedLength.Statement (.incE) := rfl
theorem EncodedLength.decE : EncodedLength.Statement (.decE) := rfl
theorem EncodedLength.ldED8 (d8 : Byte) : EncodedLength.Statement (.ldED8 d8) := rfl
theorem EncodedLength.rra : EncodedLength.Statement (.rra) := rfl
theorem EncodedLength.jrNz (e8 : Int) : EncodedLength.Statement (.jrNz e8) := rfl
theorem EncodedLength.ldHlD16 (b1 b2 : Byte) : EncodedLength.Statement (.ldHlD16 b1 b2) := rfl
theorem EncodedLength.ldMhlIncA : EncodedLength.Statement (.ldMhlIncA) := rfl
theorem EncodedLength.incHl : EncodedLength.Statement (.incHl) := rfl
theorem EncodedLength.incH : EncodedLength.Statement (.incH) := rfl
theorem EncodedLength.decH : EncodedLength.Statement (.decH) := rfl
theorem EncodedLength.ldHD8 (d8 : Byte) : EncodedLength.Statement (.ldHD8 d8) := rfl
theorem EncodedLength.daa : EncodedLength.Statement (.daa) := rfl
theorem EncodedLength.jrZ (e8 : Int) : EncodedLength.Statement (.jrZ e8) := rfl
theorem EncodedLength.addHlHl : EncodedLength.Statement (.addHlHl) := rfl
theorem EncodedLength.ldAMhlInc : EncodedLength.Statement (.ldAMhlInc) := rfl
theorem EncodedLength.decHl : EncodedLength.Statement (.decHl) := rfl
theorem EncodedLength.incL : EncodedLength.Statement (.incL) := rfl
theorem EncodedLength.decL : EncodedLength.Statement (.decL) := rfl
theorem EncodedLength.ldLD8 (d8 : Byte) : EncodedLength.Statement (.ldLD8 d8) := rfl
theorem EncodedLength.jrNc (e8 : Int) : EncodedLength.Statement (.jrNc e8) := rfl
theorem EncodedLength.ldSpD16 (b1 b2 : Byte) : EncodedLength.Statement (.ldSpD16 b1 b2) := rfl
theorem EncodedLength.ldMhlDecA : EncodedLength.Statement (.ldMhlDecA) := rfl
theorem EncodedLength.incSp : EncodedLength.Statement (.incSp) := rfl
theorem EncodedLength.incMhl : EncodedLength.Statement (.incMhl) := rfl
theorem EncodedLength.decMhl : EncodedLength.Statement (.decMhl) := rfl
theorem EncodedLength.ldMhlD8 (d8 : Byte) : EncodedLength.Statement (.ldMhlD8 d8) := rfl
theorem EncodedLength.scf : EncodedLength.Statement (.scf) := rfl
theorem EncodedLength.jrC (e8 : Int) : EncodedLength.Statement (.jrC e8) := rfl
theorem EncodedLength.addHlSp : EncodedLength.Statement (.addHlSp) := rfl
theorem EncodedLength.ldAMhlDec : EncodedLength.Statement (.ldAMhlDec) := rfl
theorem EncodedLength.decSp : EncodedLength.Statement (.decSp) := rfl
theorem EncodedLength.incA : EncodedLength.Statement (.incA) := rfl
theorem EncodedLength.decA : EncodedLength.Statement (.decA) := rfl
theorem EncodedLength.ldAD8 (d8 : Byte) : EncodedLength.Statement (.ldAD8 d8) := rfl
theorem EncodedLength.addAB : EncodedLength.Statement (.addAB) := rfl
theorem EncodedLength.addAC : EncodedLength.Statement (.addAC) := rfl
theorem EncodedLength.addAD : EncodedLength.Statement (.addAD) := rfl
theorem EncodedLength.addAE : EncodedLength.Statement (.addAE) := rfl
theorem EncodedLength.addAH : EncodedLength.Statement (.addAH) := rfl
theorem EncodedLength.addAL : EncodedLength.Statement (.addAL) := rfl
theorem EncodedLength.addAMhl : EncodedLength.Statement (.addAMhl) := rfl
theorem EncodedLength.addAA : EncodedLength.Statement (.addAA) := rfl
theorem EncodedLength.addAD8 (d8 : Byte) : EncodedLength.Statement (.addAD8 d8) := rfl

end Sys2Proof.Laws
end

