-- ==== Sys2Proof/Laws/Step.lean ====
section
/-! SUPPORT. What a fetch and a step can do, said once. -/

namespace Sys2Proof.Machine

/-- The state after the read of the opcode byte. -/
theorem fetch_noHandler {s : State} (h : decodeOpcode (s.byteAt s.regs.pc) = none) :
    fetch s = (.error (.noHandler (s.byteAt s.regs.pc) s.regs.pc),
      { s with bus := [.read s.regs.pc (s.byteAt s.regs.pc)] }) := by
  have h' : decodeOpcode (memRead s.regs.pc { s with bus := [] }).1 = none := h
  simp only [fetch, h']
  rfl

/-- The handler's instruction and the state after the operand reads. -/
theorem fetch_entry {s : State} {entry : OpcodeEntry} (h : decodeOpcode (s.byteAt s.regs.pc) = some entry) :
    fetch s = (.ok (fetchOperands entry { s with bus := [.read s.regs.pc (s.byteAt s.regs.pc)] }).1,
      (fetchOperands entry { s with bus := [.read s.regs.pc (s.byteAt s.regs.pc)] }).2) := by
  have h' : decodeOpcode (memRead s.regs.pc { s with bus := [] }).1 = some entry := h
  simp only [fetch, h']
  rfl

theorem fetchOperands_op (i : Instr) (s : State) : fetchOperands (.op i) s = (i, s) := rfl

theorem fetchOperands_opD8 (mk : Byte → Instr) (s : State) :
    fetchOperands (.opD8 mk) s = (mk (s.byteAt (s.regs.pc + 1)),
      { s with bus := s.bus ++ [.read (s.regs.pc + 1) (s.byteAt (s.regs.pc + 1))] }) := rfl

theorem fetchOperands_opE8 (mk : Int → Instr) (s : State) :
    fetchOperands (.opE8 mk) s = (mk (displacement (s.byteAt (s.regs.pc + 1))),
      { s with bus := s.bus ++ [.read (s.regs.pc + 1) (s.byteAt (s.regs.pc + 1))] }) := rfl

theorem fetchOperands_opI16 (mk : Byte → Byte → Instr) (s : State) :
    fetchOperands (.opI16 mk) s = (mk (s.byteAt (s.regs.pc + 1)) (s.byteAt (s.regs.pc + 2)),
      { s with bus := (s.bus ++ [.read (s.regs.pc + 1) (s.byteAt (s.regs.pc + 1))]) ++
        [.read (s.regs.pc + 2) (s.byteAt (s.regs.pc + 2))] }) := rfl

/-- The operand reads change the record of transactions and nothing else. -/
theorem fetchOperands_state (entry : OpcodeEntry) (s : State) :
    (fetchOperands entry s).2 = { s with bus := (fetchOperands entry s).2.bus } := by
  cases entry <;> rfl

/-- The step that runs a handler. -/
theorem step_of_entry {s : State} {entry : OpcodeEntry} (hf : s.fault = none)
    (h : decodeOpcode (s.byteAt s.regs.pc) = some entry) :
    step s = exec (fetchOperands entry { s with bus := [.read s.regs.pc (s.byteAt s.regs.pc)] }).1
      (fetchOperands entry { s with bus := [.read s.regs.pc (s.byteAt s.regs.pc)] }).2 := by
  unfold step
  split
  · rename_i e
    rw [hf] at e
    cases e
  · rw [fetch_entry h]

/-- A run by the host's interface, one step at a time. -/
theorem run_core_of_step {n : Nat} {s t : State} (h : step s = .next t) :
    Host.Core.run Sys2Proof.core (n + 1) s = Host.Core.run Sys2Proof.core n t := by
  have one : ∀ (M : Host.Core) (a b : M.State), M.step a = .next b → Host.Core.run M (n + 1) a = Host.Core.run M n b := by
    intro M a b hab
    simp only [Host.Core.run, hab]
  have := one Sys2Proof.core s t h
  exact this

/-- Everything a step that answers a next state can have done: run a handler, or latch the fault. -/
theorem step_next {s t : State} (h : step s = .next t) :
    s.fault = none ∧
      ((∃ entry, decodeOpcode (s.byteAt s.regs.pc) = some entry ∧
          exec (fetchOperands entry { s with bus := [.read s.regs.pc (s.byteAt s.regs.pc)] }).1
            (fetchOperands entry { s with bus := [.read s.regs.pc (s.byteAt s.regs.pc)] }).2 = .next t) ∨
        (decodeOpcode (s.byteAt s.regs.pc) = none ∧
          t = { s with bus := [.read s.regs.pc (s.byteAt s.regs.pc)],
                       fault := some (.noHandler (s.byteAt s.regs.pc) s.regs.pc) })) := by
  unfold step at h
  obtain hf | ⟨f, hf⟩ := Option.eq_none_or_eq_some s.fault
  · refine ⟨hf, ?_⟩
    simp only [hf] at h
    obtain hd | ⟨entry, hd⟩ := Option.eq_none_or_eq_some (decodeOpcode (s.byteAt s.regs.pc))
    · rw [fetch_noHandler hd] at h
      exact .inr ⟨hd, (Host.Outcome.next.inj h).symm⟩
    · rw [fetch_entry hd] at h
      exact .inl ⟨entry, hd, h⟩
  · simp [hf] at h

end Sys2Proof.Machine
end

