-- ==== Sys2Proof/Tests/Slice0.lean ====
section
/-! SUPPORT. Tests of the model on fixed values, each with the place of spec/ its expected result comes from, and for every
obligation that has hypotheses a concrete state and operands that meet them together. -/

namespace Sys2Proof.Tests

open Sys2Proof Sys2Proof.Machine

/-! ## Well-formedness: the checks refuse (30_encoding.md R55, R59) -/

theorem test_wf_jr_above : Instr.wellFormed (.jr 128) = false := by decide
theorem test_wf_jr_below : Instr.wellFormed (.jr (-129)) = false := by decide
theorem test_wf_jrNz_above : Instr.wellFormed (.jrNz 128) = false := by decide
theorem test_wf_jrZ_below : Instr.wellFormed (.jrZ (-129)) = false := by decide
theorem test_wf_jrNc_above : Instr.wellFormed (.jrNc 1000) = false := by decide
theorem test_wf_jrC_below : Instr.wellFormed (.jrC (-32768)) = false := by decide
theorem test_wf_ends_accepted :
    (Instr.wellFormed (.jr 127) && Instr.wellFormed (.jr (-128)) && Instr.wellFormed (.jrNz 127) &&
      Instr.wellFormed (.jrZ (-128)) && Instr.wellFormed (.jrNc 127) && Instr.wellFormed (.jrC (-128))) = true := by decide

/-! ## Decoding: a word for every constructor, written out from 30_encoding.md R52 to R56 -/

/-- The bytes decode to the instruction with none left over. -/
def decodesTo (bytes : List Byte) (i : Instr) : Bool :=
  match decode bytes with
  | .ok (j, rest) => decide (j = i) && rest.isEmpty
  | .error _ => false

/-- The byte is refused by name. -/
def hasNone (op : Byte) : Bool :=
  match decode [op, 0x00, 0x00] with
  | .ok _ => false
  | .error e => decide (e = .noHandler op)

/-- R56, R82: pattern 00000000. -/
theorem test_decode_nop :
    (decodesTo [0b00000000] (.nop)) = true := by decide

/-- R85, R86: 00pp0001, p = 0 BC, 1 DE, 2 HL, 3 SP; the immediate bytes in stream order. -/
theorem test_decode_ldRrD16 :
    (decodesTo [0b00000001, 0x04, 0x02] (.ldBcD16 0x04 0x02) &&
      decodesTo [0b00010001, 0xAB, 0xCD] (.ldDeD16 0xAB 0xCD) &&
      decodesTo [0b00100001, 0xFF, 0x00] (.ldHlD16 0xFF 0x00) &&
      decodesTo [0b00110001, 0xFF, 0xFE] (.ldSpD16 0xFF 0xFE)) = true := by decide

/-- R87, R88: 00rrr110. -/
theorem test_decode_ldRD8 :
    (decodesTo [0b00000110, 0xA5] (.ldBD8 0xA5) &&
      decodesTo [0b00001110, 0xA5] (.ldCD8 0xA5) &&
      decodesTo [0b00010110, 0xA5] (.ldDD8 0xA5) &&
      decodesTo [0b00011110, 0xA5] (.ldED8 0xA5) &&
      decodesTo [0b00100110, 0xA5] (.ldHD8 0xA5) &&
      decodesTo [0b00101110, 0xA5] (.ldLD8 0xA5) &&
      decodesTo [0b00111110, 0xA5] (.ldAD8 0xA5) &&
      decodesTo [0b00110110, 0x77] (.ldMhlD8 0x77)) = true := by decide

/-- R89 to R92: 00pp0010. -/
theorem test_decode_ldMrrA :
    (decodesTo [0b00000010] (.ldMbcA) &&
      decodesTo [0b00010010] (.ldMdeA) &&
      decodesTo [0b00100010] (.ldMhlIncA) &&
      decodesTo [0b00110010] (.ldMhlDecA)) = true := by decide

/-- R93 to R96: 00pp1010. -/
theorem test_decode_ldAMrr :
    (decodesTo [0b00001010] (.ldAMbc) &&
      decodesTo [0b00011010] (.ldAMde) &&
      decodesTo [0b00101010] (.ldAMhlInc) &&
      decodesTo [0b00111010] (.ldAMhlDec)) = true := by decide

/-- R97: 00001000. -/
theorem test_decode_ldMa16Sp :
    (decodesTo [0b00001000, 0xC0, 0x10] (.ldMa16Sp 0xC0 0x10)) = true := by decide

/-- R100, R101: 00pp0011. -/
theorem test_decode_incRr :
    (decodesTo [0b00000011] (.incBc) &&
      decodesTo [0b00010011] (.incDe) &&
      decodesTo [0b00100011] (.incHl) &&
      decodesTo [0b00110011] (.incSp)) = true := by decide

/-- R102, R103: 00pp1011. -/
theorem test_decode_decRr :
    (decodesTo [0b00001011] (.decBc) &&
      decodesTo [0b00011011] (.decDe) &&
      decodesTo [0b00101011] (.decHl) &&
      decodesTo [0b00111011] (.decSp)) = true := by decide

/-- R104, R105: 00rrr100. -/
theorem test_decode_incR :
    (decodesTo [0b00000100] (.incB) &&
      decodesTo [0b00001100] (.incC) &&
      decodesTo [0b00010100] (.incD) &&
      decodesTo [0b00011100] (.incE) &&
      decodesTo [0b00100100] (.incH) &&
      decodesTo [0b00101100] (.incL) &&
      decodesTo [0b00111100] (.incA) &&
      decodesTo [0b00110100] (.incMhl)) = true := by decide

/-- R106, R107: 00rrr101. -/
theorem test_decode_decR :
    (decodesTo [0b00000101] (.decB) &&
      decodesTo [0b00001101] (.decC) &&
      decodesTo [0b00010101] (.decD) &&
      decodesTo [0b00011101] (.decE) &&
      decodesTo [0b00100101] (.decH) &&
      decodesTo [0b00101101] (.decL) &&
      decodesTo [0b00111101] (.decA) &&
      decodesTo [0b00110101] (.decMhl)) = true := by decide

/-- R110, R111: 00pp1001. -/
theorem test_decode_addHlRr :
    (decodesTo [0b00001001] (.addHlBc) &&
      decodesTo [0b00011001] (.addHlDe) &&
      decodesTo [0b00101001] (.addHlHl) &&
      decodesTo [0b00111001] (.addHlSp)) = true := by decide

/-- R112 to R114: 10000rrr and 11000110. -/
theorem test_decode_addA :
    (decodesTo [0b10000000] (.addAB) &&
      decodesTo [0b10000001] (.addAC) &&
      decodesTo [0b10000010] (.addAD) &&
      decodesTo [0b10000011] (.addAE) &&
      decodesTo [0b10000100] (.addAH) &&
      decodesTo [0b10000101] (.addAL) &&
      decodesTo [0b10000111] (.addAA) &&
      decodesTo [0b10000110] (.addAMhl) &&
      decodesTo [0b11000110, 0x01] (.addAD8 0x01)) = true := by decide

/-- R120 to R123. -/
theorem test_decode_rotates :
    (decodesTo [0b00000111] (.rlca) &&
      decodesTo [0b00010111] (.rla) &&
      decodesTo [0b00001111] (.rrca) &&
      decodesTo [0b00011111] (.rra)) = true := by decide

/-- R125, R126: 00011000 and 001cc000; the displacement byte is two's complement (R55). -/
theorem test_decode_jr :
    (decodesTo [0b00011000, 0xFB] (.jr (-5)) &&
      decodesTo [0b00100000, 0x2A] (.jrNz 42) &&
      decodesTo [0b00101000, 0x80] (.jrZ (-128)) &&
      decodesTo [0b00110000, 0x7F] (.jrNc 127) &&
      decodesTo [0b00111000, 0xFF] (.jrC (-1))) = true := by decide

/-- R130, R131. -/
theorem test_decode_daa_scf :
    (decodesTo [0b00100111] (.daa) &&
      decodesTo [0b00110111] (.scf)) = true := by decide

/-- R57: the ends of every range without a handler, and the listed single bytes. -/
theorem test_decode_no_handler :
    ([0x10, 0x2F, 0x3F, 0x40, 0x76, 0x7F, 0x88, 0xC5, 0xC7, 0xCB, 0xFF] : List Byte).all hasNone = true := by decide

set_option maxRecDepth 8000 in
/-- R8, R57: 70 bytes have a handler, 186 have none. -/
theorem test_decode_counts :
    ((List.range 256).filter fun n => (decodeOpcode (BitVec.ofNat 8 n)).isSome).length = 70 ∧
      ((List.range 256).filter fun n => (decodeOpcode (BitVec.ofNat 8 n)).isNone).length = 186 := by decide

/-- An operand byte that the stream does not hold is refused by name. -/
theorem test_decode_truncated :
    (match decode [0x01, 0x04] with | .ok _ => false | .error e => decide (e = .truncated)) = true := by decide

/-! ## One step on a small state -/

/-- Registers at 00 and SP = FFFE, PC = 0100, as the programs of spec/95_test_vectors.md start. -/
def zeros : RegFile := { RegFile.zeros with sp := 0xFFFE, pc := 0x0100 }

/-- The bytes at PC and the data bytes in memory, under given parameters. -/
def launchWith (params : Params) (g : RegFile) (bytes : List Byte) (data : List (Word × Byte)) : State :=
  State.launch g (data.foldl (fun m x => Memory.set m x.1.toNat x.2) (placeBytes [] g.pc bytes)) params

/-- The same under the default parameters. -/
def launch (g : RegFile) (bytes : List Byte) (data : List (Word × Byte) := []) : State :=
  launchWith Params.default g bytes data

/-- `JR_BASE` = 2. -/
def base2 : Params := { Params.default with jrBase := .two }

/-- `IMM16_FIRST` = Low. -/
def lowFirst : Params := { Params.default with imm16First := .low }

/-- What one step leaves. -/
def stepLeaves (s : State) (p : State → Bool) : Bool :=
  match step s with
  | .next t => p t
  | .fault _ => false
  | .refused _ => false

/-- PC and CYC after one step from CYC = 0. -/
def at' (t : State) (pc : Word) (cyc : Nat) : Bool := t.regs.pc == pc && t.cyc == cyc

/-- 95_test_vectors.md S-1. -/
theorem test_nop : stepLeaves (launch zeros [0x00])
    (fun t => at' t 0x0101 4) = true := by decide

/-- 95_test_vectors.md 2.1. -/
theorem test_nop_wraps : stepLeaves (launch { zeros with pc := 0xFFFF } [0x00])
    (fun t => at' t 0x0000 4) = true := by decide

/-- 95_test_vectors.md 2.1: 10, nothing changes. -/
theorem test_no_handler : stepLeaves (launch { zeros with a := 0x12, f := 0x34 } [0x10])
    (fun t => decide (t.fault = some (.noHandler 0x10 0x0100)) && t.regs.a == 0x12 && t.regs.f == 0x34 && at' t 0x0100 0) = true := by decide

/-- 95_test_vectors.md 2.1: CB, the byte after it is not read. -/
theorem test_no_handler_prefix : stepLeaves (launch zeros [0xCB, 0x37])
    (fun t => decide (t.fault = some (.noHandler 0xCB 0x0100)) && decide (t.bus = [.read 0x0100 0xCB])) = true := by decide

/-- 95_test_vectors.md S-2. -/
theorem test_ldBcD16 : stepLeaves (launch { zeros with f := 0xF0 } [0x01, 0x04, 0x02])
    (fun t => t.regs.b == 0x04 && t.regs.c == 0x02 && t.regs.f == 0xF0 && t.getView .bc == 0x0402 && at' t 0x0103 12) = true := by decide

/-- 95_test_vectors.md S-2 under IMM16_FIRST = Low. -/
theorem test_ldBcD16_low : stepLeaves (launchWith lowFirst zeros [0x01, 0x04, 0x02] [])
    (fun t => t.regs.b == 0x02 && t.regs.c == 0x04 && t.getView .bc == 0x0204 && at' t 0x0103 12) = true := by decide

/-- 95_test_vectors.md 2.2. -/
theorem test_ldDeD16 : stepLeaves (launch zeros [0x11, 0xAB, 0xCD])
    (fun t => t.regs.d == 0xAB && t.regs.e == 0xCD && at' t 0x0103 12) = true := by decide

/-- 95_test_vectors.md 2.2. -/
theorem test_ldHlD16 : stepLeaves (launch zeros [0x21, 0xFF, 0x00])
    (fun t => t.regs.h == 0xFF && t.regs.l == 0x00 && at' t 0x0103 12) = true := by decide

/-- 95_test_vectors.md 2.2. -/
theorem test_ldSpD16 : stepLeaves (launch zeros [0x31, 0xFF, 0xFE])
    (fun t => t.regs.sp == 0xFFFE && at' t 0x0103 12) = true := by decide

/-- 95_test_vectors.md 2.2. -/
theorem test_ldSpD16_low : stepLeaves (launchWith lowFirst { zeros with sp := 0 } [0x31, 0xFE, 0xFF] [])
    (fun t => t.regs.sp == 0xFFFE && at' t 0x0103 12) = true := by decide

/-- 95_test_vectors.md 2.2: operand fetch and PC wrap. -/
theorem test_ldBcD16_wraps : stepLeaves (launch { zeros with pc := 0xFFFE } [0x01, 0x12, 0x34])
    (fun t => t.regs.b == 0x12 && t.regs.c == 0x34 && at' t 0x0001 12) = true := by decide

/-- 95_test_vectors.md 2.2. -/
theorem test_ldMa16Sp : stepLeaves (launch { zeros with sp := 0x1234, f := 0xF0 } [0x08, 0xC0, 0x10])
    (fun t => t.byteAt 0xC010 == 0x34 && t.byteAt 0xC011 == 0x12 && t.regs.sp == 0x1234 && t.regs.f == 0xF0 && at' t 0x0103 20) = true := by decide

/-- 95_test_vectors.md 2.2: a16 + 1 wraps, the high byte is not masked. -/
theorem test_ldMa16Sp_wraps : stepLeaves (launch { zeros with sp := 0x0FCD } [0x08, 0xFF, 0xFF])
    (fun t => t.byteAt 0xFFFF == 0xCD && t.byteAt 0x0000 == 0x0F && at' t 0x0103 20) = true := by decide

/-- 95_test_vectors.md 2.3. -/
theorem test_ldBD8 : stepLeaves (launch { zeros with f := 0xF0 } [0x06, 0xA5])
    (fun t => t.regs.b == 0xA5 && t.regs.f == 0xF0 && at' t 0x0102 8) = true := by decide

/-- 95_test_vectors.md 2.3. -/
theorem test_ldCD8 : stepLeaves (launch { zeros with f := 0xF0 } [0x0E, 0xA5])
    (fun t => t.regs.c == 0xA5 && t.regs.f == 0xF0 && at' t 0x0102 8) = true := by decide

/-- 95_test_vectors.md 2.3. -/
theorem test_ldDD8 : stepLeaves (launch { zeros with f := 0xF0 } [0x16, 0xA5])
    (fun t => t.regs.d == 0xA5 && t.regs.f == 0xF0 && at' t 0x0102 8) = true := by decide

/-- 95_test_vectors.md 2.3. -/
theorem test_ldED8 : stepLeaves (launch { zeros with f := 0xF0 } [0x1E, 0xA5])
    (fun t => t.regs.e == 0xA5 && t.regs.f == 0xF0 && at' t 0x0102 8) = true := by decide

/-- 95_test_vectors.md 2.3. -/
theorem test_ldHD8 : stepLeaves (launch { zeros with f := 0xF0 } [0x26, 0xA5])
    (fun t => t.regs.h == 0xA5 && t.regs.f == 0xF0 && at' t 0x0102 8) = true := by decide

/-- 95_test_vectors.md 2.3. -/
theorem test_ldLD8 : stepLeaves (launch { zeros with f := 0xF0 } [0x2E, 0xA5])
    (fun t => t.regs.l == 0xA5 && t.regs.f == 0xF0 && at' t 0x0102 8) = true := by decide

/-- 95_test_vectors.md 2.3. -/
theorem test_ldAD8 : stepLeaves (launch { zeros with f := 0xF0 } [0x3E, 0xA5])
    (fun t => t.regs.a == 0xA5 && t.regs.f == 0xF0 && at' t 0x0102 8) = true := by decide

/-- 95_test_vectors.md 2.3. -/
theorem test_ldMhlD8 : stepLeaves (launch { zeros with h := 0xC1, l := 0x23 } [0x36, 0x77])
    (fun t => t.byteAt 0xC123 == 0x77 && t.regs.h == 0xC1 && t.regs.l == 0x23 && at' t 0x0102 12) = true := by decide

/-- 95_test_vectors.md 2.4. -/
theorem test_ldMbcA : stepLeaves (launch { zeros with a := 0x5A, b := 0xC0 } [0x02])
    (fun t => t.byteAt 0xC000 == 0x5A && at' t 0x0101 8) = true := by decide

/-- 95_test_vectors.md 2.4. -/
theorem test_ldMdeA : stepLeaves (launch { zeros with a := 0x11, d := 0xD0, e := 0xFF } [0x12])
    (fun t => t.byteAt 0xD0FF == 0x11 && at' t 0x0101 8) = true := by decide

/-- 95_test_vectors.md 2.4. -/
theorem test_ldMhlIncA : stepLeaves (launch { zeros with a := 0x77, h := 0xC0, l := 0xFF } [0x22])
    (fun t => t.byteAt 0xC0FF == 0x77 && t.regs.h == 0xC1 && t.regs.l == 0x00 && at' t 0x0101 8) = true := by decide

/-- 95_test_vectors.md 2.4. -/
theorem test_ldMhlIncA_wraps : stepLeaves (launch { zeros with a := 0x01, h := 0xFF, l := 0xFF } [0x22])
    (fun t => t.byteAt 0xFFFF == 0x01 && t.regs.h == 0x00 && t.regs.l == 0x00 && at' t 0x0101 8) = true := by decide

/-- 95_test_vectors.md 2.4. -/
theorem test_ldMhlDecA : stepLeaves (launch { zeros with a := 0x88, h := 0xC0 } [0x32])
    (fun t => t.byteAt 0xC000 == 0x88 && t.regs.h == 0xBF && t.regs.l == 0xFF && at' t 0x0101 8) = true := by decide

/-- 95_test_vectors.md 2.4. -/
theorem test_ldMhlDecA_wraps : stepLeaves (launch { zeros with a := 0x02 } [0x32])
    (fun t => t.byteAt 0x0000 == 0x02 && t.regs.h == 0xFF && t.regs.l == 0xFF && at' t 0x0101 8) = true := by decide

/-- 95_test_vectors.md 2.4. -/
theorem test_ldAMbc : stepLeaves (launch { zeros with b := 0xC0, c := 0x05 } [0x0A] [(0xC005, 0x99)])
    (fun t => t.regs.a == 0x99 && at' t 0x0101 8) = true := by decide

/-- 95_test_vectors.md 2.4. -/
theorem test_ldAMde : stepLeaves (launch { zeros with d := 0xD0 } [0x1A] [(0xD000, 0x42)])
    (fun t => t.regs.a == 0x42 && at' t 0x0101 8) = true := by decide

/-- 95_test_vectors.md 2.4. -/
theorem test_ldAMhlInc : stepLeaves (launch { zeros with h := 0xC0, l := 0xFF } [0x2A] [(0xC0FF, 0x33)])
    (fun t => t.regs.a == 0x33 && t.regs.h == 0xC1 && t.regs.l == 0x00 && at' t 0x0101 8) = true := by decide

/-- 95_test_vectors.md 2.4. -/
theorem test_ldAMhlDec : stepLeaves (launch { zeros with h := 0xC1 } [0x3A] [(0xC100, 0x44)])
    (fun t => t.regs.a == 0x44 && t.regs.h == 0xC0 && t.regs.l == 0xFF && at' t 0x0101 8) = true := by decide

/-- 95_test_vectors.md 2.5. -/
theorem test_incBc : stepLeaves (launch { zeros with c := 0xFF, f := 0xF0 } [0x03])
    (fun t => t.regs.b == 0x01 && t.regs.c == 0x00 && t.regs.f == 0xF0 && at' t 0x0101 8) = true := by decide

/-- 95_test_vectors.md 2.5: Z is not set. -/
theorem test_incDe : stepLeaves (launch { zeros with d := 0xFF, e := 0xFF } [0x13])
    (fun t => t.regs.d == 0x00 && t.regs.e == 0x00 && t.regs.f == 0x00 && at' t 0x0101 8) = true := by decide

/-- 95_test_vectors.md 2.5. -/
theorem test_incHl : stepLeaves (launch { zeros with h := 0x12, l := 0x34 } [0x23])
    (fun t => t.regs.h == 0x12 && t.regs.l == 0x35 && at' t 0x0101 8) = true := by decide

/-- 95_test_vectors.md 2.5. -/
theorem test_incSp : stepLeaves (launch { zeros with sp := 0xFFFF } [0x33])
    (fun t => t.regs.sp == 0x0000 && at' t 0x0101 8) = true := by decide

/-- 95_test_vectors.md 2.5. -/
theorem test_decBc : stepLeaves (launch { zeros with f := 0xF0 } [0x0B])
    (fun t => t.regs.b == 0xFF && t.regs.c == 0xFF && t.regs.f == 0xF0 && at' t 0x0101 8) = true := by decide

/-- 95_test_vectors.md 2.5. -/
theorem test_decDe : stepLeaves (launch { zeros with d := 0x01 } [0x1B])
    (fun t => t.regs.d == 0x00 && t.regs.e == 0xFF && at' t 0x0101 8) = true := by decide

/-- 95_test_vectors.md 2.5. -/
theorem test_decHl : stepLeaves (launch { zeros with h := 0xC0, l := 0x01 } [0x2B])
    (fun t => t.regs.h == 0xC0 && t.regs.l == 0x00 && at' t 0x0101 8) = true := by decide

/-- 95_test_vectors.md 2.5. -/
theorem test_decSp : stepLeaves (launch { zeros with sp := 0 } [0x3B])
    (fun t => t.regs.sp == 0xFFFF && at' t 0x0101 8) = true := by decide

/-- 95_test_vectors.md S-3. -/
theorem test_incB : stepLeaves (launch { zeros with b := 0xFF, f := 0x10 } [0x04])
    (fun t => t.regs.b == 0x00 && t.regs.f == 0xB0 && at' t 0x0101 4) = true := by decide

/-- 95_test_vectors.md S-3: C stays 0. -/
theorem test_incB_no_carry : stepLeaves (launch { zeros with b := 0xFF, f := 0x40 } [0x04])
    (fun t => t.regs.b == 0x00 && t.regs.f == 0xA0 && at' t 0x0101 4) = true := by decide

/-- 95_test_vectors.md S-9: the nibble overflows, the byte does not. -/
theorem test_incC : stepLeaves (launch { zeros with c := 0x0F } [0x0C])
    (fun t => t.regs.c == 0x10 && t.regs.f == 0x20 && at' t 0x0101 4) = true := by decide

/-- 95_test_vectors.md 2.6. -/
theorem test_incD : stepLeaves (launch { zeros with d := 0x7F, f := 0xF0 } [0x14])
    (fun t => t.regs.d == 0x80 && t.regs.f == 0x30 && at' t 0x0101 4) = true := by decide

/-- 95_test_vectors.md 2.6. -/
theorem test_incE : stepLeaves (launch { zeros with f := 0xF0 } [0x1C])
    (fun t => t.regs.e == 0x01 && t.regs.f == 0x10 && at' t 0x0101 4) = true := by decide

/-- 95_test_vectors.md 2.6. -/
theorem test_incH : stepLeaves (launch { zeros with h := 0x10 } [0x24])
    (fun t => t.regs.h == 0x11 && t.regs.f == 0x00 && at' t 0x0101 4) = true := by decide

/-- 95_test_vectors.md 2.6. -/
theorem test_incL : stepLeaves (launch { zeros with l := 0xEF } [0x2C])
    (fun t => t.regs.l == 0xF0 && t.regs.f == 0x20 && at' t 0x0101 4) = true := by decide

/-- 95_test_vectors.md 2.6: the low nibble of F is kept. -/
theorem test_incA : stepLeaves (launch { zeros with a := 0x1F, f := 0x0F } [0x3C])
    (fun t => t.regs.a == 0x20 && t.regs.f == 0x2F && at' t 0x0101 4) = true := by decide

/-- 95_test_vectors.md 2.6. -/
theorem test_incMhl : stepLeaves (launch { zeros with h := 0xC0, l := 0x01, f := 0x10 } [0x34] [(0xC001, 0xFF)])
    (fun t => t.byteAt 0xC001 == 0x00 && t.regs.f == 0xB0 && t.regs.h == 0xC0 && t.regs.l == 0x01 && at' t 0x0101 12) = true := by decide

/-- 95_test_vectors.md S-4. -/
theorem test_decB : stepLeaves (launch { zeros with f := 0x10 } [0x05])
    (fun t => t.regs.b == 0xFF && t.regs.f == 0x70 && at' t 0x0101 4) = true := by decide

/-- 95_test_vectors.md 2.6. -/
theorem test_decB_zero : stepLeaves (launch { zeros with b := 0x01 } [0x05])
    (fun t => t.regs.b == 0x00 && t.regs.f == 0xC0 && at' t 0x0101 4) = true := by decide

/-- 95_test_vectors.md 2.6. -/
theorem test_decC : stepLeaves (launch { zeros with c := 0x10, f := 0x80 } [0x0D])
    (fun t => t.regs.c == 0x0F && t.regs.f == 0x60 && at' t 0x0101 4) = true := by decide

/-- 95_test_vectors.md 2.6. -/
theorem test_decD : stepLeaves (launch { zeros with d := 0x80 } [0x15])
    (fun t => t.regs.d == 0x7F && t.regs.f == 0x60 && at' t 0x0101 4) = true := by decide

/-- 95_test_vectors.md 2.6. -/
theorem test_decE : stepLeaves (launch { zeros with e := 0x0F, f := 0x10 } [0x1D])
    (fun t => t.regs.e == 0x0E && t.regs.f == 0x50 && at' t 0x0101 4) = true := by decide

/-- 95_test_vectors.md 2.6. -/
theorem test_decH : stepLeaves (launch { zeros with h := 0x20 } [0x25])
    (fun t => t.regs.h == 0x1F && t.regs.f == 0x60 && at' t 0x0101 4) = true := by decide

/-- 95_test_vectors.md 2.6. -/
theorem test_decL : stepLeaves (launch { zeros with l := 0xFF } [0x2D])
    (fun t => t.regs.l == 0xFE && t.regs.f == 0x40 && at' t 0x0101 4) = true := by decide

/-- 95_test_vectors.md 2.6. -/
theorem test_decA : stepLeaves (launch { zeros with a := 0x01, f := 0x30 } [0x3D])
    (fun t => t.regs.a == 0x00 && t.regs.f == 0xD0 && at' t 0x0101 4) = true := by decide

/-- 95_test_vectors.md 2.6. -/
theorem test_decMhl : stepLeaves (launch { zeros with h := 0xC0, l := 0x02, f := 0x80 } [0x35])
    (fun t => t.byteAt 0xC002 == 0xFF && t.regs.f == 0x60 && at' t 0x0101 12) = true := by decide

/-- 95_test_vectors.md 2.7. -/
theorem test_addHlBc : stepLeaves (launch { zeros with h := 0x0F, l := 0xFF, c := 0x01, f := 0x80 } [0x09])
    (fun t => t.regs.h == 0x10 && t.regs.l == 0x00 && t.regs.f == 0xA0 && at' t 0x0101 8) = true := by decide

/-- 95_test_vectors.md 2.7: Z kept although the result is zero. -/
theorem test_addHlDe : stepLeaves (launch { zeros with h := 0xFF, l := 0xFF, e := 0x01, f := 0x40 } [0x19])
    (fun t => t.regs.h == 0x00 && t.regs.l == 0x00 && t.regs.f == 0x30 && at' t 0x0101 8) = true := by decide

/-- 95_test_vectors.md 2.7: a carry out of bit 7 is not H. -/
theorem test_addHlDe_bit7 : stepLeaves (launch { zeros with l := 0xFF, e := 0x01, f := 0xF0 } [0x19])
    (fun t => t.regs.h == 0x01 && t.regs.l == 0x00 && t.regs.f == 0x80 && at' t 0x0101 8) = true := by decide

/-- 95_test_vectors.md 2.7. -/
theorem test_addHlHl : stepLeaves (launch { zeros with h := 0x88 } [0x29])
    (fun t => t.regs.h == 0x10 && t.regs.l == 0x00 && t.regs.f == 0x30 && at' t 0x0101 8) = true := by decide

/-- 95_test_vectors.md 2.7. -/
theorem test_addHlSp : stepLeaves (launch { zeros with l := 0x01, sp := 0xFFFF, f := 0x80 } [0x39])
    (fun t => t.regs.h == 0x00 && t.regs.l == 0x00 && t.regs.sp == 0xFFFF && t.regs.f == 0xB0 && at' t 0x0101 8) = true := by decide

/-- 95_test_vectors.md 2.8. -/
theorem test_addAB : stepLeaves (launch { zeros with a := 0x3A, b := 0xC6, f := 0x40 } [0x80])
    (fun t => t.regs.a == 0x00 && t.regs.f == 0xB0 && at' t 0x0101 4) = true := by decide

/-- 95_test_vectors.md 2.8. -/
theorem test_addAC : stepLeaves (launch { zeros with a := 0x0F, c := 0x01, f := 0xF0 } [0x81])
    (fun t => t.regs.a == 0x10 && t.regs.f == 0x20 && at' t 0x0101 4) = true := by decide

/-- 95_test_vectors.md 2.8. -/
theorem test_addAD : stepLeaves (launch { zeros with a := 0xF0, d := 0x20 } [0x82])
    (fun t => t.regs.a == 0x10 && t.regs.f == 0x10 && at' t 0x0101 4) = true := by decide

/-- 95_test_vectors.md 2.8. -/
theorem test_addAE : stepLeaves (launch { zeros with a := 0x45, e := 0x38, f := 0x50 } [0x83])
    (fun t => t.regs.a == 0x7D && t.regs.f == 0x00 && at' t 0x0101 4) = true := by decide

/-- 95_test_vectors.md 2.8. -/
theorem test_addAH : stepLeaves (launch { zeros with f := 0x70 } [0x84])
    (fun t => t.regs.a == 0x00 && t.regs.f == 0x80 && at' t 0x0101 4) = true := by decide

/-- 95_test_vectors.md 2.8. -/
theorem test_addAL : stepLeaves (launch { zeros with a := 0xFF, l := 0xFF } [0x85])
    (fun t => t.regs.a == 0xFE && t.regs.f == 0x30 && at' t 0x0101 4) = true := by decide

/-- 95_test_vectors.md 2.8. -/
theorem test_addAA : stepLeaves (launch { zeros with a := 0x88 } [0x87])
    (fun t => t.regs.a == 0x10 && t.regs.f == 0x30 && at' t 0x0101 4) = true := by decide

/-- 95_test_vectors.md 2.8. -/
theorem test_addAA_zero : stepLeaves (launch { zeros with a := 0x80 } [0x87])
    (fun t => t.regs.a == 0x00 && t.regs.f == 0x90 && at' t 0x0101 4) = true := by decide

/-- 95_test_vectors.md 2.8. -/
theorem test_addAMhl : stepLeaves (launch { zeros with a := 0x0F, h := 0xC0 } [0x86] [(0xC000, 0x01)])
    (fun t => t.regs.a == 0x10 && t.regs.f == 0x20 && at' t 0x0101 8) = true := by decide

/-- 95_test_vectors.md 2.8. -/
theorem test_addAD8 : stepLeaves (launch { zeros with a := 0x99 } [0xC6, 0x01])
    (fun t => t.regs.a == 0x9A && t.regs.f == 0x00 && at' t 0x0102 8) = true := by decide

/-- 95_test_vectors.md 2.8. -/
theorem test_addAD8_zero : stepLeaves (launch { zeros with f := 0x70 } [0xC6, 0x00])
    (fun t => t.regs.a == 0x00 && t.regs.f == 0x80 && at' t 0x0102 8) = true := by decide

/-- 95_test_vectors.md S-5. -/
theorem test_rlca : stepLeaves (launch { zeros with a := 0x80 } [0x07])
    (fun t => t.regs.a == 0x01 && t.regs.f == 0x10 && at' t 0x0101 4) = true := by decide

/-- 95_test_vectors.md 2.9: Z from the result. -/
theorem test_rlca_zero : stepLeaves (launch { zeros with f := 0x10 } [0x07])
    (fun t => t.regs.a == 0x00 && t.regs.f == 0x80 && at' t 0x0101 4) = true := by decide

/-- 95_test_vectors.md 2.9. -/
theorem test_rla : stepLeaves (launch { zeros with a := 0x80 } [0x17])
    (fun t => t.regs.a == 0x00 && t.regs.f == 0x90 && at' t 0x0101 4) = true := by decide

/-- 95_test_vectors.md 2.9. -/
theorem test_rla_carry : stepLeaves (launch { zeros with a := 0x95, f := 0x10 } [0x17])
    (fun t => t.regs.a == 0x2B && t.regs.f == 0x10 && at' t 0x0101 4) = true := by decide

/-- 95_test_vectors.md 2.9. -/
theorem test_rrca : stepLeaves (launch { zeros with a := 0x01 } [0x0F])
    (fun t => t.regs.a == 0x80 && t.regs.f == 0x10 && at' t 0x0101 4) = true := by decide

/-- 95_test_vectors.md 2.9. -/
theorem test_rrca_no_carry : stepLeaves (launch { zeros with a := 0x5A, f := 0xF0 } [0x0F])
    (fun t => t.regs.a == 0x2D && t.regs.f == 0x00 && at' t 0x0101 4) = true := by decide

/-- 95_test_vectors.md 2.9. -/
theorem test_rra : stepLeaves (launch { zeros with a := 0x01 } [0x1F])
    (fun t => t.regs.a == 0x00 && t.regs.f == 0x90 && at' t 0x0101 4) = true := by decide

/-- 95_test_vectors.md 2.9. -/
theorem test_rra_carry : stepLeaves (launch { zeros with a := 0x80, f := 0x10 } [0x1F])
    (fun t => t.regs.a == 0xC0 && t.regs.f == 0x00 && at' t 0x0101 4) = true := by decide

/-- 95_test_vectors.md 2.10. -/
theorem test_jr : stepLeaves (launch { zeros with pc := 0x0010 } [0x18, 0x80])
    (fun t => at' t 0xFF90 12) = true := by decide

/-- 95_test_vectors.md 2.10, JR_BASE = 2. -/
theorem test_jr_base2 : stepLeaves (launchWith base2 { zeros with pc := 0xFFF0 } [0x18, 0x7F] [])
    (fun t => at' t 0x0071 12) = true := by decide

/-- 95_test_vectors.md S-6. -/
theorem test_jrNz_taken : stepLeaves (launch { zeros with pc := 0x0200 } [0x20, 0x2A])
    (fun t => at' t 0x022A 12) = true := by decide

/-- 95_test_vectors.md S-6. -/
theorem test_jrNz_not : stepLeaves (launch { zeros with pc := 0x0200, f := 0x80 } [0x20, 0x2A])
    (fun t => t.regs.f == 0x80 && at' t 0x0202 8) = true := by decide

/-- 95_test_vectors.md 2.10, JR_BASE = 2. -/
theorem test_jrZ_taken : stepLeaves (launchWith base2 { zeros with pc := 0x0200, f := 0x80 } [0x28, 0x2A] [])
    (fun t => at' t 0x022C 12) = true := by decide

/-- 95_test_vectors.md 2.10, JR_BASE = 2. -/
theorem test_jrZ_not : stepLeaves (launchWith base2 { zeros with pc := 0x0200, f := 0x10 } [0x28, 0x2A] [])
    (fun t => at' t 0x0202 8) = true := by decide

/-- 95_test_vectors.md 2.10. -/
theorem test_jrNc_taken : stepLeaves (launch { zeros with pc := 0x0200, f := 0x80 } [0x30, 0x2A])
    (fun t => at' t 0x022A 12) = true := by decide

/-- 95_test_vectors.md 2.10. -/
theorem test_jrNc_not : stepLeaves (launch { zeros with pc := 0x0200, f := 0x10 } [0x30, 0x2A])
    (fun t => at' t 0x0202 8) = true := by decide

/-- 95_test_vectors.md 2.10. -/
theorem test_jrC_taken : stepLeaves (launch { zeros with pc := 0x0200, f := 0x10 } [0x38, 0x2A])
    (fun t => at' t 0x022A 12) = true := by decide

/-- 95_test_vectors.md 2.10. -/
theorem test_jrC_not : stepLeaves (launch { zeros with pc := 0x0200, f := 0x80 } [0x38, 0x2A])
    (fun t => at' t 0x0202 8) = true := by decide

/-- 95_test_vectors.md 2.11: the corner of D9. -/
theorem test_daa_entry_test : stepLeaves (launch { zeros with a := 0x94, f := 0x20 } [0x27])
    (fun t => t.regs.a == 0x9A && t.regs.f == 0x00 && at' t 0x0101 4) = true := by decide

/-- 95_test_vectors.md 2.11. -/
theorem test_daa_subtract : stepLeaves (launch { zeros with a := 0xFA, f := 0x50 } [0x27])
    (fun t => t.regs.a == 0x9A && t.regs.f == 0x50 && at' t 0x0101 4) = true := by decide

/-- 95_test_vectors.md 2.11: Z and the low nibble kept. -/
theorem test_scf : stepLeaves (launch { zeros with f := 0xFF } [0x37])
    (fun t => t.regs.f == 0x9F && at' t 0x0101 4) = true := by decide

/-- 95_test_vectors.md 2.11. -/
theorem test_scf_clear : stepLeaves (launch { zeros with f := 0x0F } [0x37])
    (fun t => t.regs.f == 0x1F && at' t 0x0101 4) = true := by decide

/-- 10_state.md R22, 95_test_vectors.md P5: a latched core takes no step. -/
theorem test_latched_core_stops :
    step { State.reset with fault := some (.noHandler 0xCB 0x0106) } = .fault (.noHandler 0xCB 0x0106) := by rfl

/-- 10_state.md R11, R17: all eight bits of F are stored through AF. -/
theorem test_af_stores_all_of_f : outsideRead .f (outsideWrite (.view .af) 0x12FF State.reset) = 0xFF := by decide

/-- 10_state.md R10, R17, R24: a write of D from outside leaves A, and shows in DE and in the D the instructions use. -/
theorem test_setter_of_d :
    outsideRead (.reg8 .a) (outsideWrite (.reg8 .d) 0x1FF (launch { zeros with a := 0x12, e := 0x34 } [])) = 0x12 ∧
      outsideRead (.view .de) (outsideWrite (.reg8 .d) 0x1FF (launch { zeros with a := 0x12, e := 0x34 } [])) = 0xFF34 ∧
      (outsideWrite (.reg8 .d) 0x1FF (launch { zeros with a := 0x12, e := 0x34 } [])).regs.d = 0xFF := by decide

/-- 20_memory.md R43: LD (HL),d8 over its own operand byte uses the old byte, the write lands after the reads. -/
theorem test_access_order : stepLeaves (launch { zeros with h := 0x01, l := 0x00 } [0x36, 0x77])
    (fun t => decide (t.bus = [.read 0x0100 0x36, .read 0x0101 0x77, .write 0x0100 0x77])) = true := by decide

/-- The word the host lays out reaches the decoder and the step: 3 bytes, the first in the low bits. -/
theorem test_table_word :
    decodeTableWord 24 0x020401 = some (.ldBcD16 0x04 0x02) ∧
      stepLeaves (State.withFetchWord State.reset 24 0x020401) (fun t => t.getView .bc == 0x0402) = true := by decide


/-! ## Witnesses: the hypotheses of every obligation that has any are met together -/

/-- DecodeInvertsEncode, at both ends of a displacement. -/
theorem test_witness_wellFormed : Instr.wellFormed (.jr (-128)) = true ∧ Instr.wellFormed (.jrC 127) = true := by decide

/-- EncodeInvertsDecode, with a byte left over. -/
theorem test_witness_decode_ok : decode [0x18, 0x80, 0x00] = .ok (.jr (-128), [0x00]) := by rfl

/-- StepFetchesDecodesAndRuns and BusAccessesFollowTheTable, on an instruction that straddles the top of the address space. -/
theorem test_witness_fetch :
    (launch { zeros with pc := 0xFFFE } [0x08, 0xC0, 0x10]).fault = none ∧
      decode (bytesAtPc (launch { zeros with pc := 0xFFFE } [0x08, 0xC0, 0x10])) = .ok (.ldMa16Sp 0xC0 0x10, []) :=
  ⟨rfl, rfl⟩

/-- StepFetchesDecodesAndRuns, UnhandledOpcodeLatchesFault and CycleCountsFollowTheTable: every range end of R57. -/
theorem test_witness_no_handler (op : Byte)
    (h : op ∈ ([0x10, 0x2F, 0x3F, 0x40, 0x7F, 0x88, 0xC5, 0xC7, 0xFF] : List Byte)) :
    (launch zeros [op]).fault = none ∧
      hasNoHandler ((launch zeros [op]).byteAt (launch zeros [op]).regs.pc) := by
  simp only [List.mem_cons, List.not_mem_nil, or_false] at h
  rcases h with rfl | rfl | rfl | rfl | rfl | rfl | rfl | rfl | rfl <;> exact ⟨rfl, by unfold hasNoHandler; decide⟩

/-- FaultLatchIsSticky, LatchedFaultStopsEveryRun and StepFetchesDecodesAndRuns: a step that runs a handler, one that latches, and a latched state. -/
theorem test_witness_latch :
    (∃ t, step (launch zeros [0x0F]) = .next t) ∧
      ¬ hasNoHandler ((launch zeros [0x0F]).byteAt (launch zeros [0x0F]).regs.pc) ∧
      (∃ t, step (launch zeros [0xCB]) = .next t) ∧
      hasNoHandler ((launch zeros [0xCB]).byteAt (launch zeros [0xCB]).regs.pc) ∧
      ∃ s : State, s.fault = some (.noHandler 0xCB 0x0100) :=
  ⟨⟨_, rfl⟩, by unfold hasNoHandler; decide, ⟨_, rfl⟩, by unfold hasNoHandler; decide,
    ⟨{ State.reset with fault := some (.noHandler 0xCB 0x0100) }, rfl⟩⟩

/-- LaunchMeetsInvariant: a memory with bytes at both ends of the address space. -/
theorem test_witness_memory : Memory.wf [(0, 0x01), (65535, 0xFF)] := by decide

/-- StepKeepsInvariant: a step that stores, and a step that latches. -/
theorem test_witness_invariant (bytes : List Byte) (h : bytes = [0x36, 0x77] ∨ bytes = [0xCB]) :
    State.Inv (launch zeros bytes) ∧ ∃ t, step (launch zeros bytes) = .next t := by
  rcases h with rfl | rfl <;> exact ⟨⟨by decide, rfl, fun _ _ h => nomatch h⟩, ⟨_, rfl⟩⟩

/-- A history with every kind of event. -/
def history : List Event :=
  [.step, .regWrite (.view .af) 0x12FF, .busWrite 0x0102 0x3C, .step, .relaunch zeros, .step]

/-- HistoryKeepsMemoryCanonical and HistoryReplaysOnMemory. -/
theorem test_witness_history :
    Memory.wf (launch zeros [0x36, 0x77]).mem ∧ ∃ t, runEvents history (launch zeros [0x36, 0x77]) = .next t :=
  ⟨by decide, ⟨_, rfl⟩⟩

/-- StepDependsOnlyOnBytesRead: ADD A,(HL) on two memories that differ at a byte it does not read. -/
theorem test_witness_other_memory :
    ∃ s u t : State, u.regs = s.regs ∧ u.params = s.params ∧ u.cyc = s.cyc ∧ u.fault = s.fault ∧ step s = .next t ∧
      (∀ a v, BusTxn.read a v ∈ t.bus → u.byteAt a = v) ∧ u.mem ≠ s.mem := by
  refine ⟨launch { zeros with h := 0xC0 } [0x86] [(0xC000, 0x01)],
    launch { zeros with h := 0xC0 } [0x86] [(0xC000, 0x01), (0xC001, 0x55)], _, rfl, rfl, rfl, rfl, rfl, ?_, by decide⟩
  intro a v h
  have h' : BusTxn.read a v ∈ [BusTxn.read 0x0100 0x86, BusTxn.read 0xC000 0x01] := h
  simp only [List.mem_cons, List.not_mem_nil, or_false, BusTxn.read.injEq] at h'
  rcases h' with ⟨rfl, rfl⟩ | ⟨rfl, rfl⟩ <;> decide

/-- StoreIsSeenByNextFetch: INC A stored over NOP, as program P6 of spec/95_test_vectors.md. -/
theorem test_witness_store_over_code :
    ∃ s : State, s.fault = none ∧ s.byteAt s.regs.pc = 0x36 ∧ s.getView .hl = s.regs.pc + 2 ∧
      decodeOpcode (s.byteAt (s.regs.pc + 1)) = some (.op .incA) :=
  ⟨launch { zeros with h := 0x01, l := 0x05, pc := 0x0103 } [0x36, 0x3C], rfl, by decide, by decide, rfl⟩

/-- GeneralRegistersFrame, FlagsFrame and MemoryFrame: exec answers a next state; something lies outside each list. -/
theorem test_witness_frames :
    (∃ t, exec .incB State.reset = .next t) ∧ Reg8.a ∉ regsWritten .incB ∧ Flag.c ∉ flagsWritten .incB ∧
      (0xFFFF : Word) ∉ storedAddresses (.ldMa16Sp 0x00 0x00) State.reset :=
  ⟨⟨_, rfl⟩, by decide, by decide, by decide⟩

/-- StackPointerReadersAndWriters. -/
theorem test_witness_sp :
    (∃ t, exec .addHlBc State.reset = .next t) ∧ writesSp .addHlBc = false ∧ Instr.addHlBc ≠ .addHlSp ∧
      ∀ b1 b2, Instr.addHlBc ≠ .ldMa16Sp b1 b2 :=
  ⟨⟨_, rfl⟩, by decide, by decide, fun _ _ h => nomatch h⟩

/-- LowNibbleOfFIsNeverRead: the largest byte, and two states that differ in F[3:0] and CYC. -/
theorem test_witness_low_nibble :
    255 < 256 ∧ ∃ s u t : State, SameButUnread s u ∧ step s = .next t ∧ u.regs.f ≠ s.regs.f :=
  ⟨by decide, launch zeros [0x27], { launch { zeros with f := 0x0F } [0x27] with cyc := 8 }, _,
    ⟨fun r => by cases r <;> rfl, fun fl => by cases fl <;> decide, rfl, rfl, rfl, rfl, rfl⟩, rfl, by decide⟩

/-- ParametersGovernJumpsAndImmediates: one instruction for each clause, with parameters that differ where they may. -/
theorem test_witness_parameters :
    (∃ t, exec .nop State.reset = .next t) ∧ Instr.nop.length ≠ 3 ∧
      (∀ e8, Instr.nop ≠ .jr e8 ∧ ∀ cc, Instr.nop ≠ Instr.jrCc e8 cc) ∧
      (∃ t, exec (.jrC 127) State.reset = .next t) ∧ (∃ e8, Instr.jrC 127 = .jr e8 ∨ ∃ cc, Instr.jrC 127 = Instr.jrCc e8 cc) ∧
      lowFirst.jrBase = State.reset.params.jrBase ∧ lowFirst ≠ State.reset.params ∧
      (∃ t, exec (.ldSpD16 0xFF 0xFE) State.reset = .next t) ∧ (Instr.ldSpD16 0xFF 0xFE).length = 3 ∧
      base2.imm16First = State.reset.params.imm16First ∧ base2 ≠ State.reset.params :=
  ⟨⟨_, rfl⟩, by decide, fun _ => ⟨(fun h => nomatch h), fun cc => by cases cc <;> exact fun h => nomatch h⟩, ⟨_, rfl⟩,
    ⟨127, .inr ⟨.c, rfl⟩⟩, rfl, by decide, ⟨_, rfl⟩, rfl, rfl, by decide⟩

/-- JumpsOnCondition: each condition holds and fails somewhere. -/
theorem test_witness_conditions (cc : Cond) :
    ∃ s u : State, CondTaken cc s ∧ ¬ CondTaken cc u := by
  cases cc
  · exact ⟨launch zeros [], launch { zeros with f := 0x80 } [], by unfold CondTaken; decide, by unfold CondTaken; decide⟩
  · exact ⟨launch { zeros with f := 0x80 } [], launch zeros [], by unfold CondTaken; decide, by unfold CondTaken; decide⟩
  · exact ⟨launch zeros [], launch { zeros with f := 0x10 } [], by unfold CondTaken; decide, by unfold CondTaken; decide⟩
  · exact ⟨launch { zeros with f := 0x10 } [], launch zeros [], by unfold CondTaken; decide, by unfold CondTaken; decide⟩

/-- AssembledDisplacementReachesTarget, at both ends of the displacement's range. -/
theorem test_witness_displacement (e8 : Int) (h : e8 = -128 ∨ e8 = 127) :
    ∃ (s : State) (target : Word),
      e8 = (target.toNat : Int) - (s.regs.pc.toNat : Int) - (jrBaseNumber s.params : Int) ∧ DisplacementFits e8 ∧
        condHolds .nz s.regs.f = true := by
  rcases h with rfl | rfl
  · exact ⟨launch { zeros with pc := 0x0200 } [], 0x0180, by decide, by decide, by decide⟩
  · exact ⟨launch { zeros with pc := 0x0200 } [], 0x027F, by decide, by decide, by decide⟩

/-- DecimalAdjusts: each branch. -/
theorem test_witness_daa : ∃ s u : State, s.flag .n = false ∧ u.flag .n = true :=
  ⟨launch zeros [], launch { zeros with f := 0x40 } [], by decide, by decide⟩

/-- DecimalAdjustGivesDecimalSum, at the largest numbers, for each form of ADD A, and for INC A and DEC A with C clear. -/
theorem test_witness_bcd :
    ∃ (s : State), 99 < 100 ∧ s.get8 .a = packedBcd 99 ∧ (∃ r, s.get8 r = packedBcd 99) ∧
      s.byteAt (s.getView .hl) = packedBcd 99 ∧ s.flag .c = false ∧ 0 < 99 :=
  ⟨launch { zeros with a := 0x99, h := 0xC0 } [] [(0xC000, 0x99)], by decide, by decide, ⟨.a, by decide⟩, by decide, by decide,
    by decide⟩

/-- AccessorWritesTruncate: for each kind of field and view written, one that shares no storage with it. -/
theorem test_witness_unshared :
    OutsideReg.reg8 .a ∉ OutsideReg.shared (.reg8 .d) ∧ OutsideReg.view .hl ∉ OutsideReg.shared (.reg8 .d) ∧
      OutsideReg.reg8 .a ∉ OutsideReg.shared .f ∧ OutsideReg.pc ∉ OutsideReg.shared .sp ∧
      OutsideReg.sp ∉ OutsideReg.shared .pc ∧ OutsideReg.reg8 .e ∉ OutsideReg.shared (.view .bc) := by decide

/-- ByteAtHlIsReadThenWritten, at the top of the address space: the read and the write of a byte that wraps. -/
theorem test_witness_byte_at_hl :
    (match exec .incMhl (launch { zeros with h := 0xFF, l := 0xFF } [] [(0xFFFF, 0xFF)]) with
      | .next t => decide (t.bus = [.read 0xFFFF 0xFF, .write 0xFFFF 0x00])
      | .fault _ => false
      | .refused _ => false) = true := by decide

/-- SafeRunsBoundCycles: two steps over SCF and NOP. -/
theorem test_witness_safe_run : SafeRun 2 (launch zeros [0x37, 0x00]) :=
  ⟨rfl, _, rfl, rfl, _, rfl, rfl⟩


end Sys2Proof.Tests
end

section
/-! The FAULT latch (10_state.md R22): which opcode bytes a fetch latches, and that no handler touches it. -/

namespace Sys2Proof.Machine

/-- The opcode table has no entry exactly for the bytes R57 lists: the 256 bytes compared one by one. -/
theorem decodeOpcode_eq_none_iff (op : Byte) : decodeOpcode op = none ↔ hasNoHandler op := by
  rw [← Option.isNone_iff_eq_none]
  unfold hasNoHandler
  revert op
  decide

theorem jumpIf_completes (cc : Cond) (e8 : Int) (s : State) :
    ∃ t, jumpIf cc e8 s = .next t ∧ SameLatchAndParams s t :=
  ⟨_, jumpIf_eq cc e8 s, rfl, rfl⟩

/-- Every handler ends in `ret`, after writes to registers, memory and the record only; the conditional jumps do so in both
branches (R140). -/
theorem exec_completes (i : Instr) (s : State) : ∃ t, exec i s = .next t ∧ SameLatchAndParams s t := by
  cases i with
  | jrNz e8 => exact jumpIf_completes .nz e8 s
  | jrZ e8 => exact jumpIf_completes .z e8 s
  | jrNc e8 => exact jumpIf_completes .nc e8 s
  | jrC e8 => exact jumpIf_completes .c e8 s
  | _ => exact ⟨_, rfl, rfl, rfl⟩

theorem exec_next_fault {i : Instr} {s t : State} (h : exec i s = .next t) : t.fault = s.fault := by
  obtain ⟨u, hu, hfault, -⟩ := exec_completes i s
  cases h.symm.trans hu
  exact hfault

theorem fetchOperands_fault (entry : OpcodeEntry) (s : State) : (fetchOperands entry s).2.fault = s.fault := by
  rw [fetchOperands_state]

/-- The latch after a step: the fetched byte and its address if the byte has no handler, else clear. -/
theorem step_next_fault {s t : State} (h : step s = .next t) :
    (hasNoHandler (s.byteAt s.regs.pc) → t.fault = some (.noHandler (s.byteAt s.regs.pc) s.regs.pc)) ∧
      (¬ hasNoHandler (s.byteAt s.regs.pc) → t.fault = none) := by
  rw [← decodeOpcode_eq_none_iff]
  obtain ⟨hclear, ⟨entry, hdecode, hexec⟩ | ⟨hdecode, rfl⟩⟩ := step_next h
  · have hfault : t.fault = none := by rw [exec_next_fault hexec, fetchOperands_fault, hclear]
    exact ⟨fun hnone => by simp [hdecode] at hnone, fun _ => hfault⟩
  · exact ⟨fun _ => rfl, fun hsome => absurd hdecode hsome⟩

/-- Settles O6: a step that answers starts with the latch clear and either latches or runs a handler, which leaves it clear. -/
theorem faultLatchIsSticky : Obligations.FaultLatchIsSticky := by
  refine ⟨fun s t h => ⟨(step_next h).1, step_next_fault h⟩, fun s hset u hstep => ?_⟩
  exact hset (step_next hstep).1

end Sys2Proof.Machine
end

section
/-! The pair views and their halves on the accessor surface (10_state.md R16 to R19). -/

namespace Sys2Proof.Machine

/-- A setter truncates to the field's width and the getter returns what it stored (R18, R19). -/
theorem outsideRead_outsideWrite_self (x : OutsideReg) (v : Nat) (s : State) :
    outsideRead x (outsideWrite x v s) = v % 2 ^ x.width := by
  cases x with
  | reg8 r => simp [outsideRead, outsideWrite, OutsideReg.width]
  | f => exact BitVec.toNat_ofNat v 8
  | sp => exact BitVec.toNat_ofNat v 16
  | pc => exact BitVec.toNat_ofNat v 16
  | view p => simp [outsideRead, outsideWrite, OutsideReg.width]

/-- The first-named half of a view is its high byte (R16). -/
theorem outsideRead_view (p : View) (s : State) :
    outsideRead (.view p) s = outsideRead (viewHalves p).1 s * 256 + outsideRead (viewHalves p).2 s := by
  cases p <;> exact concatBytes_toNat _ _

section ReadAfterWrite
variable (p : View) (v : Nat) (s : State)

theorem outsideRead_highHalf_writeView : outsideRead (viewHalves p).1 (outsideWrite (.view p) v s) = v / 256 % 256 := by
  calc outsideRead (viewHalves p).1 (outsideWrite (.view p) v s)
      = (highByte (BitVec.ofNat 16 v)).toNat := by cases p <;> rfl
    _ = v / 256 % 256 := by rw [highByte_toNat, BitVec.toNat_ofNat]; omega

theorem outsideRead_lowHalf_writeView : outsideRead (viewHalves p).2 (outsideWrite (.view p) v s) = v % 256 := by
  calc outsideRead (viewHalves p).2 (outsideWrite (.view p) v s)
      = (lowByte (BitVec.ofNat 16 v)).toNat := by cases p <;> rfl
    _ = v % 256 := by rw [lowByte_toNat, BitVec.toNat_ofNat]; omega

theorem outsideRead_writeHighHalf_self : outsideRead (viewHalves p).1 (outsideWrite (viewHalves p).1 v s) = v % 256 := by
  rw [outsideRead_outsideWrite_self]
  cases p <;> rfl

theorem outsideRead_writeLowHalf_self : outsideRead (viewHalves p).2 (outsideWrite (viewHalves p).2 v s) = v % 256 := by
  rw [outsideRead_outsideWrite_self]
  cases p <;> rfl

theorem outsideRead_lowHalf_writeHighHalf :
    outsideRead (viewHalves p).2 (outsideWrite (viewHalves p).1 v s) = outsideRead (viewHalves p).2 s := by
  cases p <;> rfl

theorem outsideRead_highHalf_writeLowHalf :
    outsideRead (viewHalves p).1 (outsideWrite (viewHalves p).2 v s) = outsideRead (viewHalves p).1 s := by
  cases p <;> rfl

theorem outsideRead_view_writeHighHalf :
    outsideRead (.view p) (outsideWrite (viewHalves p).1 v s) = v % 256 * 256 + outsideRead (viewHalves p).2 s := by
  rw [outsideRead_view, outsideRead_writeHighHalf_self, outsideRead_lowHalf_writeHighHalf]

theorem outsideRead_view_writeLowHalf :
    outsideRead (.view p) (outsideWrite (viewHalves p).2 v s) = outsideRead (viewHalves p).1 s * 256 + v % 256 := by
  rw [outsideRead_view, outsideRead_writeLowHalf_self, outsideRead_highHalf_writeLowHalf]

end ReadAfterWrite

/-- Settles O26: each clause is the law of one write, read through the view or through a half. -/
theorem pairViewsRoundTrip : Obligations.PairViewsRoundTrip := fun p v s =>
  ⟨outsideRead_view p s, outsideRead_outsideWrite_self (.view p) v s, outsideRead_highHalf_writeView p v s,
    outsideRead_lowHalf_writeView p v s, outsideRead_view_writeHighHalf p v s, outsideRead_view_writeLowHalf p v s⟩

end Sys2Proof.Machine
end

section
/-! The end of a handler that does not branch (10_state.md R15, 41_step_nop.md R80), and NOP (R82), which is nothing but that end. -/

namespace Sys2Proof.Machine

/-- A PC moved on by a word is the PC number moved on by the word's number, modulo 65536 (R15). -/
theorem advanced_of_pc_cyc {s t : State} (len : Word) {cycles : Nat} (hpc : t.regs.pc = s.regs.pc + len)
    (hcyc : t.cyc = s.cyc + cycles) : Advanced s t len.toNat cycles :=
  ⟨by rw [hpc, BitVec.toNat_add], hcyc⟩

/-- A handler that does not touch the memory leaves every byte unchanged, whatever addresses are excepted. -/
theorem sameMemoryBut_of_mem_eq {s t : State} (as : List Word) (h : t.mem = s.mem) : SameMemoryBut as s t :=
  fun a _ => State.byteAt_congr h a

/-- A handler whose register file differs from the old one at PC alone keeps every general register. -/
theorem sameRegsBut_of_regs_withPc {s t : State} (rs : List Reg8) {pc : Word} (h : t.regs = { s.regs with pc := pc }) :
    SameRegsBut rs s t := fun r _ => by
  rw [State.get8_eq, State.get8_eq, h, RegFile.get8_withPc]

/-- Settles O28: NOP's handler writes PC and CYC alone, so each frame clause is a field it does not write. -/
theorem nopOnlyAdvances : Obligations.NopOnlyAdvances := by
  intro s
  refine ⟨_, (exec_nop s).trans (execNop_eq s), advanced_of_pc_cyc 1 rfl rfl, ?sameF, sameRegsBut_of_regs_withPc [] rfl,
    ?sameSp, sameMemoryBut_of_mem_eq [] rfl, ⟨?sameFault, ?sameParams⟩, ?encoding⟩
  case sameF | sameSp | sameFault | sameParams => rfl
  case encoding => decide

end Sys2Proof.Machine
end

section
/-! The loads and stores (42_loads.md R85 to R97). First what the writes they are made of leave unchanged and what a read gives
after them; then one lemma for each way a load or store ends, from which its instructions follow. -/

namespace Sys2Proof.Machine

/-! A 16-bit value as a number: the immediate (R55) and a word moved by one. -/

theorem imm16_toNat (params : Params) (b1 b2 : Byte) : (imm16 params b1 b2).toNat = imm16Number params b1 b2 := by
  unfold imm16 imm16Number
  cases params.imm16First with
  | high => exact concatBytes_toNat b1 b2
  | low => exact concatBytes_toNat b2 b1

theorem word_add_one_toNat (v : Word) : (v + 1).toNat = (v.toNat + 1) % 65536 := BitVec.toNat_add v 1

theorem word_sub_one_toNat (v : Word) : (v - 1).toNat = (v.toNat + 65535) % 65536 := by
  rw [BitVec.toNat_sub, Nat.add_comm]
  rfl

/-! The registers after a write of a pair or of one register that is followed by the PC write. -/

theorem RegFile.get8_highHalf_setView (g : RegFile) (p : Pair) (v : Word) :
    (g.setView p.view v).get8 (pairHalves p).1 = highByte v := by
  cases p <;> rfl

theorem RegFile.get8_lowHalf_setView (g : RegFile) (p : Pair) (v : Word) :
    (g.setView p.view v).get8 (pairHalves p).2 = lowByte v := by
  cases p <;> rfl

theorem RegFile.get8_setView_of_not_half (g : RegFile) {p : Pair} {r : Reg8} (v : Word)
    (hr : r ∉ [(pairHalves p).1, (pairHalves p).2]) : (g.setView p.view v).get8 r = g.get8 r := by
  simp only [List.mem_cons, List.not_mem_nil, or_false, not_or] at hr
  obtain ⟨hhigh, hlow⟩ := hr
  cases p with
  | bc => exact (RegFile.get8_setBc g r v).trans ((if_neg hhigh).trans (if_neg hlow))
  | de => exact (RegFile.get8_setDe g r v).trans ((if_neg hhigh).trans (if_neg hlow))
  | hl => exact (RegFile.get8_setHl g r v).trans ((if_neg hhigh).trans (if_neg hlow))

@[simp] theorem RegFile.getView_withPc (g : RegFile) (p : View) (pc : Word) :
    ({ g with pc := pc } : RegFile).getView p = g.getView p := by
  cases p <;> rfl

theorem sameRegsBut_of_regs_setView {s t : State} (p : Pair) {v pc : Word}
    (h : t.regs = { s.regs.setView p.view v with pc := pc }) :
    SameRegsBut [(pairHalves p).1, (pairHalves p).2] s t := fun r hr => by
  rw [State.get8_eq, State.get8_eq, h, RegFile.get8_withPc, RegFile.get8_setView_of_not_half s.regs v hr]

theorem sameRegsBut_of_regs_set8 {s t : State} (r : Reg8) {v : Byte} {pc : Word}
    (h : t.regs = { s.regs.set8 r v with pc := pc }) : SameRegsBut [r] s t := fun q hq => by
  rw [State.get8_eq, State.get8_eq, h, RegFile.get8_withPc, RegFile.get8_set8, if_neg (List.mem_singleton.not.mp hq)]

theorem sameRegsBut_of_regs_withSpPc {s t : State} (rs : List Reg8) {sp pc : Word}
    (h : t.regs = { s.regs with sp := sp, pc := pc }) : SameRegsBut rs s t := fun r _ =>
  calc t.get8 r = ({ s.regs with sp := sp } : RegFile).get8 r := by
        rw [State.get8_eq, h]
        exact RegFile.get8_withPc { s.regs with sp := sp } pc r
    _ = s.get8 r := RegFile.get8_withSp s.regs sp r

theorem getView_of_regs_setView {s t : State} (p : View) {v pc : Word}
    (h : t.regs = { s.regs.setView p v with pc := pc }) : t.getView p = v := by
  rw [State.getView_eq, h, RegFile.getView_withPc, RegFile.getView_setView]

/-! The memory after one bus write (20_memory.md R31). -/

theorem byteAt_of_mem_memWrite {s t : State} {a : Word} {v : Byte} (h : t.mem = (memWrite a v s).mem) :
    t.byteAt a = v := by
  rw [State.byteAt_congr h, State.byteAt_memWrite, if_pos rfl]

theorem sameMemoryBut_of_mem_memWrite {s t : State} {a : Word} {v : Byte} (h : t.mem = (memWrite a v s).mem) :
    SameMemoryBut [a] s t := fun b hb => by
  rw [State.byteAt_congr h, State.byteAt_memWrite, if_neg (List.mem_singleton.not.mp hb)]

/-! The immediate loads (R85 to R87). -/

theorem exec_ldRrD16 (p : Pair) (b1 b2 : Byte) (s : State) :
    exec (Instr.ldRrD16 b1 b2 p) s = loadPairImm p b1 b2 s := by
  cases p with
  | bc => exact exec_ldBcD16 b1 b2 s
  | de => exact exec_ldDeD16 b1 b2 s
  | hl => exact exec_ldHlD16 b1 b2 s

theorem exec_ldRD8 (r : Reg8) (d8 : Byte) (s : State) : exec (Instr.ldRD8 d8 r) s = loadRegImm r d8 s := by
  cases r <;> rfl

/-- Settles O29: the pair's halves are the two bytes of the immediate, and the handler writes them, PC and CYC alone. -/
theorem loadPairImmediate : Obligations.LoadPairImmediate := by
  intro p b1 b2 s
  refine ⟨_, (exec_ldRrD16 p b1 b2 s).trans (loadPairImm_eq p b1 b2 s), ?high, ?low, ?view, advanced_of_pc_cyc 3 rfl rfl,
    ?sameF, sameRegsBut_of_regs_setView p rfl, ?sameSp, sameMemoryBut_of_mem_eq [] rfl, ⟨rfl, rfl⟩, ?encoding⟩
  case high =>
    rw [State.get8_eq, RegFile.get8_withPc, RegFile.get8_highHalf_setView, highByte_toNat, imm16_toNat]
  case low =>
    rw [State.get8_eq, RegFile.get8_withPc, RegFile.get8_lowHalf_setView, lowByte_toNat, imm16_toNat]
  case view => rw [getView_of_regs_setView p.view rfl, imm16_toNat]
  case sameF => exact RegFile.setView_f s.regs p _
  case sameSp => exact RegFile.setView_sp s.regs p.view _
  case encoding => cases p <;> rfl

/-- Settles O30: SP takes the immediate, and the handler writes SP, PC and CYC alone. -/
theorem loadStackPointerImmediate : Obligations.LoadStackPointerImmediate := by
  intro b1 b2 s
  exact ⟨_, (exec_ldSpD16 b1 b2 s).trans (execLdSpD16_eq b1 b2 s), imm16_toNat s.params b1 b2,
    advanced_of_pc_cyc 3 rfl rfl, rfl, sameRegsBut_of_regs_withSpPc [] rfl, sameMemoryBut_of_mem_eq [] rfl,
    ⟨rfl, rfl⟩, rfl⟩

/-- Settles O31: the register reads back the immediate, and the handler writes it, PC and CYC alone. -/
theorem loadRegisterImmediate : Obligations.LoadRegisterImmediate := by
  intro r d8 s
  refine ⟨_, (exec_ldRD8 r d8 s).trans (loadRegImm_eq r d8 s), ?loaded, advanced_of_pc_cyc 2 rfl rfl, ?sameF,
    sameRegsBut_of_regs_set8 r rfl, ?sameSp, sameMemoryBut_of_mem_eq [] rfl, ⟨rfl, rfl⟩, ?encoding⟩
  case loaded => rw [State.get8_eq, RegFile.get8_withPc, RegFile.get8_set8_self]
  case sameF => exact RegFile.set8_f s.regs r d8
  case sameSp => exact RegFile.set8_sp s.regs r d8
  case encoding => cases r <;> rfl

/-! The stores and loads of one byte (R88 to R96): one lemma for each way the handler ends, for every instruction `i` whose
handler ends so. -/

section ByteTransfer
variable {i : Instr} {s : State} {code : List Byte}

/-- A handler that is one bus write and the usual end (R88 to R90). -/
theorem storesByte_of_exec {a : Word} {v : Byte} {len : Word} {cycles : Nat}
    (hexec : exec i s =
      .next { memWrite a v s with regs := { s.regs with pc := s.regs.pc + len }, cyc := s.cyc + cycles })
    (hcode : encode i = code) :
    ∃ t, exec i s = .next t ∧ t.byteAt a = v ∧ Advanced s t len.toNat cycles ∧ SameF s t ∧ SameRegsBut [] s t ∧
      SameSp s t ∧ SameMemoryBut [a] s t ∧ SameLatchAndParams s t ∧ encode i = code :=
  ⟨_, hexec, byteAt_of_mem_memWrite rfl, advanced_of_pc_cyc len rfl rfl, rfl, sameRegsBut_of_regs_withPc [] rfl, rfl,
    sameMemoryBut_of_mem_memWrite rfl, ⟨rfl, rfl⟩, hcode⟩

/-- The store of A at HL on entry, HL moved afterwards (R91, R92). -/
theorem storesThenMovesHl_of_exec {move : Word → Word} {moved : Nat} (hexec : exec i s = storeAMoveHl move s)
    (hmove : (move (s.getView .hl)).toNat = moved) (hcode : encode i = code) :
    ∃ t, exec i s = .next t ∧ t.byteAt (s.getView .hl) = s.get8 .a ∧ (t.getView .hl).toNat = moved ∧
      Advanced s t 1 8 ∧ SameF s t ∧ SameRegsBut [.h, .l] s t ∧ SameSp s t ∧ SameMemoryBut [s.getView .hl] s t ∧
      SameLatchAndParams s t ∧ encode i = code :=
  ⟨_, hexec.trans (storeAMoveHl_eq move s), byteAt_of_mem_memWrite rfl,
    (congrArg BitVec.toNat (getView_of_regs_setView .hl rfl)).trans hmove, advanced_of_pc_cyc 1 rfl rfl, rfl,
    sameRegsBut_of_regs_setView .hl rfl, rfl, sameMemoryBut_of_mem_memWrite rfl, ⟨rfl, rfl⟩, hcode⟩

/-- The load of A through a pair (R93, R94). -/
theorem loadsA_of_exec {p : Pair} (hexec : exec i s = loadA p s) (hcode : encode i = code) :
    ∃ t, exec i s = .next t ∧ t.get8 .a = s.byteAt (s.getView p.view) ∧ Advanced s t 1 8 ∧ SameF s t ∧
      SameRegsBut [.a] s t ∧ SameSp s t ∧ SameMemoryBut [] s t ∧ SameLatchAndParams s t ∧ encode i = code :=
  ⟨_, hexec.trans (loadA_eq p s), rfl, advanced_of_pc_cyc 1 rfl rfl, rfl, sameRegsBut_of_regs_set8 .a rfl, rfl,
    sameMemoryBut_of_mem_eq [] rfl, ⟨rfl, rfl⟩, hcode⟩

/-- The load of A from HL on entry, HL moved afterwards (R95, R96). -/
theorem loadsAThenMovesHl_of_exec {move : Word → Word} {moved : Nat} (hexec : exec i s = loadAMoveHl move s)
    (hmove : (move (s.getView .hl)).toNat = moved) (hcode : encode i = code) :
    ∃ t, exec i s = .next t ∧ t.get8 .a = s.byteAt (s.getView .hl) ∧ (t.getView .hl).toNat = moved ∧
      Advanced s t 1 8 ∧ SameF s t ∧ SameRegsBut [.a, .h, .l] s t ∧ SameSp s t ∧ SameMemoryBut [] s t ∧
      SameLatchAndParams s t ∧ encode i = code := by
  refine ⟨_, hexec.trans (loadAMoveHl_eq move s), rfl, ?moved, advanced_of_pc_cyc 1 rfl rfl, rfl, ?sameRegs, rfl,
    sameMemoryBut_of_mem_eq [] rfl, ⟨rfl, rfl⟩, hcode⟩
  case moved =>
    have hview : (s.regs.setView .hl (move (s.getView .hl))).getView .hl = move (s.getView .hl) :=
      RegFile.getView_setView s.regs .hl _
    exact (congrArg BitVec.toNat hview).trans hmove
  case sameRegs =>
    intro r hr
    obtain ⟨ha, hhl⟩ := not_or.mp (List.mem_cons.not.mp hr)
    calc _ = ((s.regs.setView .hl (move (s.getView .hl))).set8 .a (s.byteAt (s.getView .hl))).get8 r :=
          RegFile.get8_withPc _ _ r
      _ = (s.regs.setView .hl (move (s.getView .hl))).get8 r := by rw [RegFile.get8_set8, if_neg ha]
      _ = s.get8 r := RegFile.get8_setView_of_not_half (p := .hl) s.regs _ hhl

end ByteTransfer

/-- Settles O32: each handler is one bus write at its pair's value and the usual end. -/
theorem storesThroughPair : Obligations.StoresThroughPair := fun d8 s =>
  ⟨storesByte_of_exec ((exec_ldMhlD8 d8 s).trans (execLdMhlD8_eq d8 s)) rfl,
    storesByte_of_exec ((exec_ldMbcA s).trans (storeA_eq .bc s)) rfl,
    storesByte_of_exec ((exec_ldMdeA s).trans (storeA_eq .de s)) rfl⟩

/-- Settles O33: both handlers are the same store and differ in how HL moves. -/
theorem storesThenMovesHl : Obligations.StoresThenMovesHl := fun s =>
  ⟨storesThenMovesHl_of_exec (exec_ldMhlIncA s) (word_add_one_toNat _) rfl,
    storesThenMovesHl_of_exec (exec_ldMhlDecA s) (word_sub_one_toNat _) rfl⟩

/-- Settles O34: both handlers are the load of A, through BC and through DE. -/
theorem loadsAThroughPair : Obligations.LoadsAThroughPair := fun s =>
  ⟨loadsA_of_exec (exec_ldAMbc s) rfl, loadsA_of_exec (exec_ldAMde s) rfl⟩

/-- Settles O35: both handlers are the same load and differ in how HL moves. -/
theorem loadsAThenMovesHl : Obligations.LoadsAThenMovesHl := fun s =>
  ⟨loadsAThenMovesHl_of_exec (exec_ldAMhlInc s) (word_add_one_toNat _) rfl,
    loadsAThenMovesHl_of_exec (exec_ldAMhlDec s) (word_sub_one_toNat _) rfl⟩

/-! The store of SP (R97): two bus writes at consecutive addresses, which differ even where the second wraps to 0. -/

theorem sameMemoryBut_of_mem_memWrite_memWrite {s t : State} {a b : Word} {v w : Byte}
    (h : t.mem = (memWrite b w (memWrite a v s)).mem) : SameMemoryBut [a, b] s t := fun c hc => by
  obtain ⟨ha, hb⟩ := not_or.mp (List.mem_cons.not.mp hc)
  rw [State.byteAt_congr h, State.byteAt_memWrite, if_neg (List.mem_singleton.not.mp hb), State.byteAt_memWrite, if_neg ha]

/-- Settles O36: the second write does not reach the address of the first, so each byte reads back. -/
theorem storesStackPointer : Obligations.StoresStackPointer := by
  intro b1 b2 s
  refine ⟨_, (exec_ldMa16Sp b1 b2 s).trans (execLdMa16Sp_eq b1 b2 s), imm16_toNat s.params b1 b2, ?next, ?low, ?high,
    advanced_of_pc_cyc 3 rfl rfl, rfl, sameRegsBut_of_regs_withPc [] rfl, rfl,
    sameMemoryBut_of_mem_memWrite_memWrite rfl, ⟨rfl, rfl⟩, rfl⟩
  case next => rw [word_add_one_toNat, imm16_toNat]
  case low =>
    have hlow : (memWrite (imm16 s.params b1 b2 + 1) (highByte s.regs.sp)
        (memWrite (imm16 s.params b1 b2) (lowByte s.regs.sp) s)).byteAt (imm16 s.params b1 b2) = lowByte s.regs.sp := by
      rw [State.byteAt_memWrite, if_neg (left_ne_add.mpr (by decide)), State.byteAt_memWrite, if_pos rfl]
    exact (congrArg BitVec.toNat hlow).trans (lowByte_toNat s.regs.sp)
  case high => exact (congrArg BitVec.toNat (byteAt_of_mem_memWrite rfl)).trans (highByte_toNat s.regs.sp)

end Sys2Proof.Machine
end

section
/-! The increments and decrements (43_incdec.md R100 to R107): of a pair, of SP, of a register and of the byte at HL, one lemma
for each, from which INC and DEC follow. The last two share what Add8 and Sub8 give on the operand 1 (R70, R73). -/

namespace Sys2Proof.Machine

/-! F after a handler wrote its flag outputs back (R13). -/

theorem flag_of_writeFlags {s t : State} {o : FlagOut} (k : Flag) (h : t.regs.f = writeFlags o s.regs.f) :
    t.flag k = (flagOut o k).getD (s.flag k) := by
  rw [State.flag_eq, State.flag_eq, h, getFlag_writeFlags]

theorem sameLowF_of_writeFlags {s t : State} {o : FlagOut} (h : t.regs.f = writeFlags o s.regs.f) : SameLowF s t := by
  unfold SameLowF
  rw [h, writeFlags_mod16]

/-! The registers after a write of one register, of F and of PC. -/

@[simp] theorem RegFile.get8_withFPc (g : RegFile) (f : Byte) (pc : Word) (r : Reg8) :
    ({ g with f := f, pc := pc } : RegFile).get8 r = g.get8 r := by
  cases r <;> rfl

theorem sameRegsBut_of_regs_withFPc {s t : State} (rs : List Reg8) {f : Byte} {pc : Word}
    (h : t.regs = { s.regs with f := f, pc := pc }) : SameRegsBut rs s t := fun r _ => by
  rw [State.get8_eq, State.get8_eq, h, RegFile.get8_withFPc]

theorem get8_of_regs_set8_withFPc {s t : State} (r : Reg8) {v f : Byte} {pc : Word}
    (h : t.regs = { s.regs.set8 r v with f := f, pc := pc }) : t.get8 r = v := by
  rw [State.get8_eq, h, RegFile.get8_withFPc, RegFile.get8_set8_self]

theorem sameRegsBut_of_regs_set8_withFPc {s t : State} (r : Reg8) {v f : Byte} {pc : Word}
    (h : t.regs = { s.regs.set8 r v with f := f, pc := pc }) : SameRegsBut [r] s t := fun q hq => by
  rw [State.get8_eq, State.get8_eq, h, RegFile.get8_withFPc, RegFile.get8_set8, if_neg (List.mem_singleton.not.mp hq)]

/-! The ALU primitives on the operand 1. -/

/-- An outcome of an ALU primitive without a C output, as R70 and R73 give it: the result as a number, Z from the result, and the
values of N and H. -/
structure Alu8.StepsTo (o : Alu8) (result : Nat) (n h : Bool) : Prop where
  result : o.result.toNat = result
  flags : o.flags = { z := some (decide (o.result.toNat = 0)), n := some n, h := some h }

theorem beq_zero_eq_decide_toNat (v : Byte) : (v == 0) = decide (v.toNat = 0) := by
  rw [Bool.eq_iff_iff, beq_iff_eq, decide_eq_true_iff]
  exact BitVec.toNat_inj.symm

theorem halfCarry8_one (v : Byte) : halfCarry8 v 1 = decide (v.toNat % 16 = 15) := by
  unfold halfCarry8
  rw [lowNibble_toNat, lowNibble_toNat, decide_eq_decide]
  show v.toNat % 16 + 1 > 15 ↔ v.toNat % 16 = 15
  omega

theorem nibbleBorrow_one (v : Byte) :
    decide ((v &&& 0x0F).toNat < ((1 : Byte) &&& 0x0F).toNat) = decide (v.toNat % 16 = 0) := by
  rw [lowNibble_toNat, decide_eq_decide]
  exact Nat.lt_one_iff

/-- Add8 of 1: H where the low nibble is 0xF (R70). -/
theorem add8_one_stepsTo (v : Byte) :
    (add8 v 1).StepsTo ((v.toNat + 1) % 256) false (decide (v.toNat % 16 = 15)) where
  result := BitVec.toNat_add v 1
  flags := by simp only [add8, halfCarry8_one, beq_zero_eq_decide_toNat]

/-- Sub8 of 1: H where the low nibble is 0 (R73). -/
theorem sub8_one_stepsTo (v : Byte) :
    (sub8 v 1).StepsTo ((v.toNat + 255) % 256) true (decide (v.toNat % 16 = 0)) where
  result := (BitVec.toNat_sub v 1).trans (congrArg (· % 256) (Nat.add_comm 255 v.toNat))
  flags := by simp only [sub8, nibbleBorrow_one, beq_zero_eq_decide_toNat]

section WrittenFlags
variable {o : Alu8} {result : Nat} {n h : Bool} {s t : State}

theorem Alu8.StepsTo.flag_eq (ho : o.StepsTo result n h) (k : Flag) (hf : t.regs.f = writeFlags o.flags s.regs.f) :
    t.flag k =
      (flagOut { z := some (decide (o.result.toNat = 0)), n := some n, h := some h } k).getD (s.flag k) := by
  rw [flag_of_writeFlags k hf, ho.flags]

theorem Alu8.StepsTo.flag_z (ho : o.StepsTo result n h) (hf : t.regs.f = writeFlags o.flags s.regs.f) {v : Byte}
    (hv : v = o.result) : t.flag .z = decide (v.toNat = 0) := by
  rw [hv]
  exact ho.flag_eq .z hf

end WrittenFlags

/-! The handlers of the register families. -/

theorem exec_incRr (p : Pair) (s : State) : exec (Instr.incRr p) s = stepPair p (· + 1) s := by
  cases p with
  | bc => exact exec_incBc s
  | de => exact exec_incDe s
  | hl => exact exec_incHl s

theorem exec_decRr (p : Pair) (s : State) : exec (Instr.decRr p) s = stepPair p (· - 1) s := by
  cases p with
  | bc => exact exec_decBc s
  | de => exact exec_decDe s
  | hl => exact exec_decHl s

theorem exec_incR (r : Reg8) (s : State) : exec (Instr.incR r) s = updateReg (add8 · 1) r s := by
  cases r <;> rfl

theorem exec_decR (r : Reg8) (s : State) : exec (Instr.decR r) s = updateReg (sub8 · 1) r s := by
  cases r <;> rfl

/-! One lemma for each operand that is moved, for every instruction `i` whose handler moves it. -/

section IncDec
variable {i : Instr} {s : State} {code : List Byte}

/-- A pair moved by one (R100, R102). -/
theorem stepsPair_of_exec {p : Pair} {move : Word → Word} {moved : Nat} (hexec : exec i s = stepPair p move s)
    (hmove : (move (s.getView p.view)).toNat = moved) (hcode : encode i = code) :
    ∃ t, exec i s = .next t ∧ (t.getView p.view).toNat = moved ∧ Advanced s t 1 8 ∧ SameF s t ∧
      SameRegsBut [(pairHalves p).1, (pairHalves p).2] s t ∧ SameSp s t ∧ SameMemoryBut [] s t ∧
      SameLatchAndParams s t ∧ encode i = code :=
  ⟨_, hexec.trans (stepPair_eq p move s), (congrArg BitVec.toNat (getView_of_regs_setView p.view rfl)).trans hmove,
    advanced_of_pc_cyc 1 rfl rfl, RegFile.setView_f s.regs p _, sameRegsBut_of_regs_setView p rfl,
    RegFile.setView_sp s.regs p.view _, sameMemoryBut_of_mem_eq [] rfl, ⟨rfl, rfl⟩, hcode⟩

/-- SP moved by one (R101, R103). -/
theorem stepsSp_of_exec {move : Word → Word} {moved : Nat} (hexec : exec i s = stepSp move s)
    (hmove : (move s.regs.sp).toNat = moved) (hcode : encode i = code) :
    ∃ t, exec i s = .next t ∧ t.regs.sp.toNat = moved ∧ Advanced s t 1 8 ∧ SameF s t ∧ SameRegsBut [] s t ∧
      SameMemoryBut [] s t ∧ SameLatchAndParams s t ∧ encode i = code :=
  ⟨_, hexec.trans (stepSp_eq move s), hmove, advanced_of_pc_cyc 1 rfl rfl, rfl, sameRegsBut_of_regs_withSpPc [] rfl,
    sameMemoryBut_of_mem_eq [] rfl, ⟨rfl, rfl⟩, hcode⟩

variable {op : Byte → Alu8} {moved : Nat} {n h : Bool}

/-- A register moved by one, with the primitive's flags (R104, R106). -/
theorem stepsReg_of_exec {r : Reg8} (hexec : exec i s = updateReg op r s) (ho : (op (s.get8 r)).StepsTo moved n h)
    (hcode : encode i = code) :
    ∃ t, exec i s = .next t ∧ (t.get8 r).toNat = moved ∧ t.flag .z = decide ((t.get8 r).toNat = 0) ∧ t.flag .n = n ∧
      t.flag .h = h ∧ t.flag .c = s.flag .c ∧ SameLowF s t ∧ Advanced s t 1 4 ∧ SameRegsBut [r] s t ∧ SameSp s t ∧
      SameMemoryBut [] s t ∧ SameLatchAndParams s t ∧ encode i = code :=
  ⟨_, hexec.trans (updateReg_eq op r s), (congrArg BitVec.toNat (get8_of_regs_set8_withFPc r rfl)).trans ho.result,
    ho.flag_z rfl (get8_of_regs_set8_withFPc r rfl), ho.flag_eq .n rfl, ho.flag_eq .h rfl, ho.flag_eq .c rfl,
    sameLowF_of_writeFlags rfl, advanced_of_pc_cyc 1 rfl rfl, sameRegsBut_of_regs_set8_withFPc r rfl,
    RegFile.set8_sp s.regs r _, sameMemoryBut_of_mem_eq [] rfl, ⟨rfl, rfl⟩, hcode⟩

/-- The byte at HL moved by one, with the primitive's flags (R105, R107). -/
theorem stepsByteAtHl_of_exec (hexec : exec i s = updateMhl op s)
    (ho : (op (s.byteAt (s.getView .hl))).StepsTo moved n h) (hcode : encode i = code) :
    ∃ t, exec i s = .next t ∧ (t.byteAt (s.getView .hl)).toNat = moved ∧
      t.flag .z = decide ((t.byteAt (s.getView .hl)).toNat = 0) ∧ t.flag .n = n ∧ t.flag .h = h ∧
      t.flag .c = s.flag .c ∧ SameLowF s t ∧ Advanced s t 1 12 ∧ SameRegsBut [] s t ∧ SameSp s t ∧
      SameMemoryBut [s.getView .hl] s t ∧ SameLatchAndParams s t ∧ encode i = code :=
  ⟨_, hexec.trans (updateMhl_eq op s), (congrArg BitVec.toNat (byteAt_of_mem_memWrite rfl)).trans ho.result,
    ho.flag_z rfl (byteAt_of_mem_memWrite rfl), ho.flag_eq .n rfl, ho.flag_eq .h rfl, ho.flag_eq .c rfl,
    sameLowF_of_writeFlags rfl, advanced_of_pc_cyc 1 rfl rfl, sameRegsBut_of_regs_withFPc [] rfl, rfl,
    sameMemoryBut_of_mem_memWrite rfl, ⟨rfl, rfl⟩, hcode⟩

end IncDec

/-- Settles O37: both handlers move the pair's view and differ in the direction. -/
theorem stepsRegisterPair : Obligations.StepsRegisterPair := fun p s =>
  ⟨stepsPair_of_exec (exec_incRr p s) (word_add_one_toNat _) (by cases p <;> rfl),
    stepsPair_of_exec (exec_decRr p s) (word_sub_one_toNat _) (by cases p <;> rfl)⟩

/-- Settles O38: both handlers move SP and differ in the direction. -/
theorem stepsStackPointer : Obligations.StepsStackPointer := fun s =>
  ⟨stepsSp_of_exec (exec_incSp s) (word_add_one_toNat _) rfl, stepsSp_of_exec (exec_decSp s) (word_sub_one_toNat _) rfl⟩

/-- Settles O39: the register takes what Add8 gives on the operand 1, with its flags. -/
theorem incrementsRegister : Obligations.IncrementsRegister := fun r s =>
  stepsReg_of_exec (exec_incR r s) (add8_one_stepsTo (s.get8 r)) (by cases r <;> rfl)

/-- Settles O40: the register takes what Sub8 gives on the operand 1, with its flags. -/
theorem decrementsRegister : Obligations.DecrementsRegister := fun r s =>
  stepsReg_of_exec (exec_decR r s) (sub8_one_stepsTo (s.get8 r)) (by cases r <;> rfl)

/-- Settles O41: the byte at HL takes what Add8 or Sub8 gives on the operand 1, with its flags. -/
theorem stepsByteAtHl : Obligations.StepsByteAtHl := fun s =>
  ⟨stepsByteAtHl_of_exec (exec_incMhl s) (add8_one_stepsTo _) rfl,
    stepsByteAtHl_of_exec (exec_decMhl s) (sub8_one_stepsTo _) rfl⟩

end Sys2Proof.Machine
end

section
/-! The additions (44_add.md R110 to R114): to HL, whose ADD HL,rr and ADD HL,SP are one operation on two operands, and to A,
whose three operand forms differ in where the operand byte comes from and in how far PC and CYC move. -/

namespace Sys2Proof.Machine

/-! The flag outputs of the two adding primitives as arithmetic on the operands (R71, R72). -/

theorem low12Bits_toNat (v : Word) : (v &&& 0x0FFF).toNat = v.toNat % 4096 := by
  rw [BitVec.toNat_and]
  exact Nat.and_two_pow_sub_one_eq_mod v.toNat 12

theorem add16_flags (v operand : Word) :
    (add16 v operand).flags =
      { n := some false, h := some (decide (v.toNat % 4096 + operand.toNat % 4096 > 4095)),
        c := some (decide (v.toNat + operand.toNat > 65535)) } := by
  simp only [add16, low12Bits_toNat]

theorem halfCarry8_eq (v operand : Byte) :
    halfCarry8 v operand = decide (v.toNat % 16 + operand.toNat % 16 > 15) := by
  simp only [halfCarry8, lowNibble_toNat]

theorem addWithCarryOut_flags (v operand : Byte) :
    (addWithCarryOut v operand).flags =
      { z := some (decide ((addWithCarryOut v operand).result.toNat = 0)), n := some false,
        h := some (decide (v.toNat % 16 + operand.toNat % 16 > 15)),
        c := some (decide (v.toNat + operand.toNat > 255)) } := by
  simp only [addWithCarryOut, halfCarry8_eq, beq_zero_eq_decide_toNat]

/-! The registers after a write of a pair, of F and of PC. -/

theorem RegFile.getView_withFPc (g : RegFile) (p : Pair) (f : Byte) (pc : Word) :
    ({ g with f := f, pc := pc } : RegFile).getView p.view = g.getView p.view := by
  cases p <;> rfl

theorem getView_of_regs_setView_withFPc {s t : State} (p : Pair) {v : Word} {f : Byte} {pc : Word}
    (h : t.regs = { s.regs.setView p.view v with f := f, pc := pc }) : t.getView p.view = v := by
  rw [State.getView_eq, h, RegFile.getView_withFPc, RegFile.getView_setView]

theorem sameRegsBut_of_regs_setView_withFPc {s t : State} (p : Pair) {v : Word} {f : Byte} {pc : Word}
    (h : t.regs = { s.regs.setView p.view v with f := f, pc := pc }) :
    SameRegsBut [(pairHalves p).1, (pairHalves p).2] s t := fun r hr => by
  rw [State.get8_eq, State.get8_eq, h, RegFile.get8_withFPc, RegFile.get8_setView_of_not_half s.regs v hr]

/-! The additions to HL (R110, R111). -/

theorem exec_addHlRr (p : Pair) (s : State) : exec (Instr.addHlRr p) s = addToHl (s.getView p.view) s := by
  cases p with
  | bc => exact exec_addHlBc s
  | de => exact exec_addHlDe s
  | hl => exact exec_addHlHl s

theorem addToHl_next (operand : Word) (s : State) :
    ∃ t, addToHl operand s = .next t ∧
      t.regs = { s.regs.setView .hl (add16 (s.getView .hl) operand).result with
        f := writeFlags (add16 (s.getView .hl) operand).flags s.regs.f, pc := s.regs.pc + 1 } ∧
      t.cyc = s.cyc + 8 ∧ t.mem = s.mem ∧ SameLatchAndParams s t :=
  ⟨_, addToHl_eq operand s, rfl, rfl, rfl, rfl, rfl⟩

/-- An operand added to HL, for every instruction `i` whose handler does so; the operand is a value on entry. -/
theorem addsToHl_of_exec {i : Instr} {s : State} {operand : Word} {code : List Byte}
    (hexec : exec i s = addToHl operand s) (hcode : encode i = code) :
    ∃ t, exec i s = .next t ∧ (t.getView .hl).toNat = ((s.getView .hl).toNat + operand.toNat) % 65536 ∧
      t.flag .z = s.flag .z ∧ t.flag .n = false ∧
      t.flag .h = decide ((s.getView .hl).toNat % 4096 + operand.toNat % 4096 > 4095) ∧
      t.flag .c = decide ((s.getView .hl).toNat + operand.toNat > 65535) ∧ SameLowF s t ∧
      Advanced s t 1 8 ∧ SameRegsBut [.h, .l] s t ∧ SameSp s t ∧ SameMemoryBut [] s t ∧ SameLatchAndParams s t ∧
      encode i = code := by
  obtain ⟨t, hnext, hregs, hcyc, hmem, hlatch⟩ := addToHl_next operand s
  have hhl : t.getView .hl = (add16 (s.getView .hl) operand).result := getView_of_regs_setView_withFPc .hl hregs
  have hf : t.regs.f = writeFlags (add16 (s.getView .hl) operand).flags s.regs.f := congrArg RegFile.f hregs
  have hsp : SameSp s t := by
    rw [SameSp, hregs]
    rfl
  have hflag (k : Flag) := flag_of_writeFlags k hf
  rw [add16_flags] at hflag
  exact ⟨t, hexec.trans hnext, (congrArg BitVec.toNat hhl).trans (BitVec.toNat_add _ operand), hflag .z, hflag .n,
    hflag .h, hflag .c, sameLowF_of_writeFlags hf, advanced_of_pc_cyc 1 (congrArg RegFile.pc hregs) hcyc,
    sameRegsBut_of_regs_setView_withFPc .hl hregs, hsp, sameMemoryBut_of_mem_eq [] hmem, hlatch, hcode⟩

/-- Settles O42: every form is the one addition to HL, of a pair's view or of SP on entry. -/
theorem addsToHl : Obligations.AddsToHl := fun p s =>
  ⟨addsToHl_of_exec (exec_addHlRr p s) (by cases p <;> rfl), addsToHl_of_exec (exec_addHlSp s) rfl⟩

/-! The additions to A (R112 to R114). -/

theorem exec_addAR (r : Reg8) (s : State) :
    exec (Instr.addAR r) s = ret 4 ((addToA (s.get8 r) s).advance 1) := by
  cases r <;> rfl

/-- What the addition leaves, wherever the PC write goes: A and F take the primitive's outputs, all else but PC stays. -/
theorem addedToA_of_regs {s t : State} {operand : Byte} {pc : Word}
    (hregs : t.regs = { s.regs.set8 .a (addWithCarryOut (s.get8 .a) operand).result with
      f := writeFlags (addWithCarryOut (s.get8 .a) operand).flags s.regs.f, pc := pc })
    (hmem : t.mem = s.mem) (hlatch : SameLatchAndParams s t) : AddedToA operand s t := by
  have ha : t.get8 .a = (addWithCarryOut (s.get8 .a) operand).result := get8_of_regs_set8_withFPc .a hregs
  have hf : t.regs.f = writeFlags (addWithCarryOut (s.get8 .a) operand).flags s.regs.f := congrArg RegFile.f hregs
  have hsp : SameSp s t := by
    rw [SameSp, hregs]
    rfl
  have hflag (k : Flag) := flag_of_writeFlags k hf
  rw [addWithCarryOut_flags, ← ha] at hflag
  exact ⟨(congrArg BitVec.toNat ha).trans (BitVec.toNat_add _ operand), hflag .z, hflag .n, hflag .h, hflag .c,
    sameLowF_of_writeFlags hf, sameRegsBut_of_regs_set8_withFPc .a hregs, hsp,
    sameMemoryBut_of_mem_eq [] hmem, hlatch⟩

/-- An operand added to A, for every instruction `i` whose handler does so; `u` is the state after the operand was read. -/
theorem addsToA_of_exec {i : Instr} {s u : State} {operand : Byte} {bus : List BusTxn} {code : List Byte} (len : Word)
    (cycles : Byte) (hexec : exec i s = ret cycles ((addToA operand u).advance len)) (hu : u = { s with bus := bus })
    (hcode : encode i = code) :
    ∃ t, exec i s = .next t ∧ AddedToA operand s t ∧ Advanced s t len.toNat cycles.toNat ∧ encode i = code := by
  subst hu
  exact ⟨_, hexec, addedToA_of_regs rfl rfl ⟨rfl, rfl⟩, advanced_of_pc_cyc len rfl rfl, hcode⟩

/-- Settles O43: the three operand forms are the one addition to A; of the state it starts from, the read at HL changes only
the bus record. -/
theorem addsToA : Obligations.AddsToA := fun s =>
  ⟨fun r => addsToA_of_exec 1 4 (exec_addAR r s) rfl (by cases r <;> rfl),
    addsToA_of_exec 1 8 (exec_addAMhl s) rfl rfl,
    fun d8 => addsToA_of_exec 2 8 (exec_addAD8 d8 s) rfl rfl⟩

end Sys2Proof.Machine
end

section
/-! The rotates of A (45_rotates.md R120 to R123): one handler, on the outcome of RotateLeft or RotateRight (R74, R75). The bit
shifted in is the bit rotated out (RLCA, RRCA) or the old C flag (RLA, RRA). -/

namespace Sys2Proof.Machine

/-! The bits and the shifts of RotateLeft and RotateRight as arithmetic on the byte's number. -/

theorem bit7_eq_decide (v : Byte) : v.getLsbD 7 = decide (v.toNat / 128 = 1) := by
  have hlt := v.isLt
  rw [BitVec.getLsbD, Nat.testBit_eq_decide_div_mod_eq, decide_eq_decide]
  omega

theorem bit0_eq_decide (v : Byte) : v.getLsbD 0 = decide (v.toNat % 2 = 1) := by
  rw [BitVec.getLsbD, Nat.testBit_zero]

theorem bitByte_toNat (b : Bool) : (bitByte b).toNat = if b then 1 else 0 := by
  cases b <;> rfl

/-- The bit shifted in takes the place bit 0 left. -/
theorem shiftLeft_or_bitByte_toNat (v : Byte) (b : Bool) :
    ((v <<< 1) ||| bitByte b).toNat = v.toNat % 128 * 2 + if b then 1 else 0 := by
  have hshift : (v <<< 1).toNat = (v.toNat % 128) <<< 1 := by
    rw [BitVec.toNat_shiftLeft, Nat.shiftLeft_eq, Nat.shiftLeft_eq]
    omega
  have hfill : (bitByte b).toNat < 2 ^ 1 := by cases b <;> decide
  rw [BitVec.toNat_or, hshift, ← Nat.shiftLeft_add_eq_or_of_lt hfill, Nat.shiftLeft_eq, bitByte_toNat]

/-- The bit shifted in takes the place bit 7 left. -/
theorem shiftRight_or_bitByte_toNat (v : Byte) (b : Bool) :
    ((v >>> 1) ||| (bitByte b <<< 7)).toNat = v.toNat / 2 + if b then 128 else 0 := by
  have hshift : (v >>> 1).toNat < 2 ^ 7 := by
    have hlt := v.isLt
    rw [BitVec.toNat_ushiftRight, Nat.shiftRight_eq_div_pow]
    omega
  have hfill : (bitByte b <<< 7).toNat = (if b then 1 else 0) <<< 7 := by cases b <;> rfl
  rw [BitVec.toNat_or, hfill, Nat.or_comm, ← Nat.shiftLeft_add_eq_or_of_lt hshift, BitVec.toNat_ushiftRight,
    Nat.shiftRight_eq_div_pow, Nat.add_comm]
  cases b <;> rfl

/-! The two primitives. -/

/-- An outcome of RotateLeft or RotateRight, as R74 and R75 give it: the result as a number, Z from the result, N and H cleared, and
the value of C. -/
structure Alu8.RotatesTo (o : Alu8) (result : Nat) (c : Bool) : Prop where
  result : o.result.toNat = result
  flags : o.flags = { z := some (decide (o.result.toNat = 0)), n := some false, h := some false, c := some c }

theorem Alu8.RotatesTo.flag_eq {o : Alu8} {result : Nat} {c : Bool} {s t : State} (ho : o.RotatesTo result c) (k : Flag)
    (hf : t.regs.f = writeFlags o.flags s.regs.f) :
    t.flag k =
      (flagOut { z := some (decide (o.result.toNat = 0)), n := some false, h := some false, c := some c } k).getD
        (s.flag k) := by
  rw [flag_of_writeFlags k hf, ho.flags]

theorem rotateLeft_flags (v : Byte) (carryIn throughCarry : Bool) :
    (rotateLeft v carryIn throughCarry).flags =
      { z := some (decide ((rotateLeft v carryIn throughCarry).result.toNat = 0)), n := some false, h := some false,
        c := some (decide (v.toNat / 128 = 1)) } := by
  simp only [rotateLeft, bit7_eq_decide, beq_zero_eq_decide_toNat]

theorem rotateRight_flags (v : Byte) (carryIn throughCarry : Bool) :
    (rotateRight v carryIn throughCarry).flags =
      { z := some (decide ((rotateRight v carryIn throughCarry).result.toNat = 0)), n := some false, h := some false,
        c := some (decide (v.toNat % 2 = 1)) } := by
  simp only [rotateRight, bit0_eq_decide, beq_zero_eq_decide_toNat]

/-- Through the carry, the bit shifted in is the old carry (R74). -/
theorem rotateLeft_throughCarry_rotatesTo (v : Byte) (carryIn : Bool) :
    (rotateLeft v carryIn true).RotatesTo (v.toNat % 128 * 2 + if carryIn then 1 else 0)
      (decide (v.toNat / 128 = 1)) where
  result := shiftLeft_or_bitByte_toNat v carryIn
  flags := rotateLeft_flags v carryIn true

/-- Through the carry, the bit shifted in is the old carry (R75). -/
theorem rotateRight_throughCarry_rotatesTo (v : Byte) (carryIn : Bool) :
    (rotateRight v carryIn true).RotatesTo (v.toNat / 2 + if carryIn then 128 else 0) (decide (v.toNat % 2 = 1)) where
  result := shiftRight_or_bitByte_toNat v carryIn
  flags := rotateRight_flags v carryIn true

/-- Circularly, the bit shifted in is bit 7, whatever the old carry (R74). -/
theorem rotateLeft_circular_rotatesTo (v : Byte) (carryIn : Bool) :
    (rotateLeft v carryIn false).RotatesTo (v.toNat % 128 * 2 + v.toNat / 128) (decide (v.toNat / 128 = 1)) where
  result := by
    have hlt := v.isLt
    have hbit : (if v.getLsbD 7 then 1 else 0) = v.toNat / 128 := by
      simp only [bit7_eq_decide, decide_eq_true_eq]
      split <;> omega
    exact (shiftLeft_or_bitByte_toNat v (v.getLsbD 7)).trans (congrArg (v.toNat % 128 * 2 + ·) hbit)
  flags := rotateLeft_flags v carryIn false

/-- Circularly, the bit shifted in is bit 0, whatever the old carry (R75). -/
theorem rotateRight_circular_rotatesTo (v : Byte) (carryIn : Bool) :
    (rotateRight v carryIn false).RotatesTo (v.toNat / 2 + v.toNat % 2 * 128) (decide (v.toNat % 2 = 1)) where
  result := by
    have hbit : (if v.getLsbD 0 then 128 else 0) = v.toNat % 2 * 128 := by
      simp only [bit0_eq_decide, decide_eq_true_eq]
      split <;> omega
    exact (shiftRight_or_bitByte_toNat v (v.getLsbD 0)).trans (congrArg (v.toNat / 2 + ·) hbit)
  flags := rotateRight_flags v carryIn false

/-! The instructions. -/

/-- A replaced by its rotation, for every instruction `i` whose handler does so. -/
theorem rotatesA_of_exec {i : Instr} {s : State} {o : Alu8} {result : Nat} {c : Bool} {code : List Byte}
    (hexec : exec i s = rotateA o s) (ho : o.RotatesTo result c) (hcode : encode i = code) :
    ∃ t, exec i s = .next t ∧ (t.get8 .a).toNat = result ∧ t.flag .z = decide ((t.get8 .a).toNat = 0) ∧
      t.flag .n = false ∧ t.flag .h = false ∧ t.flag .c = c ∧ SameLowF s t ∧ Advanced s t 1 4 ∧
      SameRegsBut [.a] s t ∧ SameSp s t ∧ SameMemoryBut [] s t ∧ SameLatchAndParams s t ∧ encode i = code :=
  ⟨_, hexec.trans (rotateA_eq o s), ho.result, ho.flag_eq .z rfl, ho.flag_eq .n rfl, ho.flag_eq .h rfl,
    ho.flag_eq .c rfl, sameLowF_of_writeFlags rfl, advanced_of_pc_cyc 1 rfl rfl,
    sameRegsBut_of_regs_set8_withFPc .a rfl, rfl, sameMemoryBut_of_mem_eq [] rfl, ⟨rfl, rfl⟩, hcode⟩

/-- Settles O44: both handlers rotate A circularly and differ in the direction. -/
theorem circularRotatesOfA : Obligations.CircularRotatesOfA := fun s =>
  ⟨rotatesA_of_exec (exec_rlca s) (rotateLeft_circular_rotatesTo (s.get8 .a) false) rfl,
    rotatesA_of_exec (exec_rrca s) (rotateRight_circular_rotatesTo (s.get8 .a) false) rfl⟩

/-- Settles O45: both handlers rotate A through the C flag on entry and differ in the direction. -/
theorem rotatesOfAThroughCarry : Obligations.RotatesOfAThroughCarry := fun s =>
  ⟨rotatesA_of_exec (exec_rla s) (rotateLeft_throughCarry_rotatesTo (s.get8 .a) (s.flag .c)) rfl,
    rotatesA_of_exec (exec_rra s) (rotateRight_throughCarry_rotatesTo (s.get8 .a) (s.flag .c)) rfl⟩

end Sys2Proof.Machine
end

section
/-! DAA and SCF (47_daa_scf.md R130, R131). The two conditions of DAA, its adjustment and its result as arithmetic on the entry
value of A; what C becomes is the 0x60 condition itself, in both branches. -/

namespace Sys2Proof.Machine

/-! The two conditions: the addition branch tests A, the subtraction branch only the flag. -/

theorem daaLow_addition (a : Byte) (h : Bool) : daaLow a false h = (h || decide (a.toNat % 16 > 9)) := by
  rw [← lowNibble_toNat]
  rfl

theorem daaHigh_addition (a : Byte) (c : Bool) : daaHigh a false c = (c || decide (a.toNat > 0x99)) := rfl

theorem daaLow_subtraction (a : Byte) (h : Bool) : daaLow a true h = h := Bool.or_false h

theorem daaHigh_subtraction (a : Byte) (c : Bool) : daaHigh a true c = c := Bool.or_false c

/-! The outcome of the adjustment. -/

/-- The two parts of the adjustment add up to at most 0x66, so their byte sum does not wrap. -/
theorem daaAdjustment_toNat (low high : Bool) :
    ((if low then 0x06 else 0) + (if high then 0x60 else 0) : Byte).toNat =
      (if low then 6 else 0) + (if high then 0x60 else 0) := by
  cases low <;> cases high <;> rfl

theorem decimalAdjust_result_addition (a : Byte) (h c : Bool) :
    (decimalAdjust a false h c).result.toNat =
      (a.toNat + (if h = true ∨ a.toNat % 16 > 9 then 6 else 0) +
        (if c = true ∨ a.toNat > 0x99 then 0x60 else 0)) % 256 := by
  calc (decimalAdjust a false h c).result.toNat
      = (a.toNat + ((if daaLow a false h then 6 else 0) + (if daaHigh a false c then 0x60 else 0))) % 256 :=
        (BitVec.toNat_add a _).trans (by rw [daaAdjustment_toNat])
    _ = _ := by simp only [daaLow_addition, daaHigh_addition, Bool.or_eq_true, decide_eq_true_eq, Nat.add_assoc]

theorem decimalAdjust_result_subtraction (a : Byte) (h c : Bool) :
    (decimalAdjust a true h c).result.toNat =
      (a.toNat + 256 - ((if h = true then 6 else 0) + (if c = true then 0x60 else 0))) % 256 := by
  have hsub : (decimalAdjust a true h c).result.toNat =
      (256 - ((if h then 6 else 0) + (if c then 0x60 else 0)) + a.toNat) % 256 := by
    refine (BitVec.toNat_sub a _).trans ?_
    rw [daaAdjustment_toNat, daaLow_subtraction, daaHigh_subtraction]
  have hle : (if h then 6 else 0) + (if c then 0x60 else 0) ≤ 256 := by cases h <;> cases c <;> decide
  rw [hsub, Nat.add_comm _ a.toNat, Nat.add_sub_assoc hle a.toNat]

/-- C ends as the 0x60 condition: written with 1 where it holds in the addition branch, and elsewhere kept with the value the
condition has. -/
theorem decimalAdjust_carry (a : Byte) (n h c : Bool) :
    (decimalAdjust a n h c).flags.c.getD c = daaHigh a n c := by
  show (if !n && daaHigh a n c then some true else none).getD c = daaHigh a n c
  cases n with
  | true => exact (daaHigh_subtraction a c).symm
  | false =>
    cases c with
    | true => rfl
    | false => cases daaHigh a false false <;> rfl

/-! The instructions. -/

/-- The handler DAA ends in, on any outcome of a primitive: A and F take it, PC and CYC move on, all else stays. -/
theorem rotateA_next (o : Alu8) (s : State) :
    ∃ t, rotateA o s = .next t ∧ t.get8 .a = o.result ∧ t.regs.f = writeFlags o.flags s.regs.f ∧ Advanced s t 1 4 ∧
      SameRegsBut [.a] s t ∧ SameSp s t ∧ SameMemoryBut [] s t ∧ SameLatchAndParams s t :=
  ⟨_, rotateA_eq o s, rfl, rfl, advanced_of_pc_cyc 1 rfl rfl, sameRegsBut_of_regs_set8_withFPc .a rfl, rfl,
    sameMemoryBut_of_mem_eq [] rfl, rfl, rfl⟩

/-- Settles O49: A and the flags are the adjustment's outcome on the entry values. -/
theorem decimalAdjusts : Obligations.DecimalAdjusts := by
  intro s
  obtain ⟨t, hnext, ha, hf, hadvanced, hregs, hsp, hmem, hlatch⟩ :=
    rotateA_next (decimalAdjust (s.get8 .a) (s.flag .n) (s.flag .h) (s.flag .c)) s
  have hflag (k : Flag) := flag_of_writeFlags k hf
  have hcarry : t.flag .c = daaHigh (s.get8 .a) (s.flag .n) (s.flag .c) :=
    (hflag .c).trans (decimalAdjust_carry _ _ _ _)
  refine ⟨t, ((exec_daa s).trans (execDaa_eq s)).trans hnext, fun hn => ⟨?addResult, ?addCarry⟩,
    fun hn => ⟨?subResult, ?subCarry⟩, ?zero, hflag .h, hflag .n, sameLowF_of_writeFlags hf, hadvanced, hregs, hsp, hmem,
    hlatch, rfl⟩
  case addResult => rw [ha, hn, decimalAdjust_result_addition]
  case addCarry => rw [hcarry, hn, daaHigh_addition]
  case subResult => rw [ha, hn, decimalAdjust_result_subtraction]
  case subCarry => rw [hcarry, hn, daaHigh_subtraction]
  case zero => exact (hflag .z).trans (ha ▸ beq_zero_eq_decide_toNat _)

/-- Settles O50: the flag outputs list N, H and C, and the handler writes F, PC and CYC alone. -/
theorem setsCarry : Obligations.SetsCarry := by
  intro s
  have hflag (k : Flag) {t : State} (hf : t.regs.f = writeFlags setCarryFlags s.regs.f) := flag_of_writeFlags k hf
  exact ⟨_, (exec_scf s).trans (execScf_eq s), hflag .c rfl, hflag .n rfl, hflag .h rfl, hflag .z rfl,
    sameLowF_of_writeFlags (o := setCarryFlags) rfl, advanced_of_pc_cyc 1 rfl rfl, sameRegsBut_of_regs_withFPc [] rfl,
    rfl, sameMemoryBut_of_mem_eq [] rfl, ⟨rfl, rfl⟩, rfl⟩

end Sys2Proof.Machine
end

section
/-! The step on an opcode byte with no handler (60_exceptions.md R141): the latch, and nothing else but the record of the fetch. -/

namespace Sys2Proof.Machine

/-- The step that latches, the counterpart of `step_of_entry`. -/
theorem step_of_noHandler {s : State} (hf : s.fault = none) (h : hasNoHandler (s.byteAt s.regs.pc)) :
    step s = .next (State.raise (.noHandler (s.byteAt s.regs.pc) s.regs.pc)
      { s with bus := [.read s.regs.pc (s.byteAt s.regs.pc)] }) := by
  have hfetch := fetch_noHandler ((decodeOpcode_eq_none_iff _).mpr h)
  simp only [step, hf, hfetch]

/-- Settles O5: the step raises the fault on the state the fetch leaves, which differs from `s` in the record alone, and a
state with the latch set has no next one. -/
theorem unhandledOpcodeLatchesFault : Obligations.UnhandledOpcodeLatchesFault := by
  intro s hclear hop
  refine ⟨_, step_of_noHandler hclear hop, State.raise_fault _ _, State.raise_regs _ _, State.raise_mem _ _, State.raise_cyc _ _,
    State.raise_params _ _, fun u hnext => ?noNextStep⟩
  case noNextStep => exact Option.some_ne_none _ (step_next hnext).1

end Sys2Proof.Machine
end

section
/-! Encoding and decoding (30_encoding.md R50 to R60): the opcode table and the bit patterns of the encoder are each other's
inverse, byte by byte and with their operands. -/

namespace Sys2Proof

/-- The displacement byte reads back as the displacement it was made from, where one byte can hold it (R55). -/
theorem displacement_displacementByte {e8 : Int} (h : DisplacementFits e8) : displacement (displacementByte e8) = e8 := by
  obtain ⟨hlow, hhigh⟩ := h
  rw [displacement, displacementByte, BitVec.toInt_ofInt, Int.bmod_def]
  omega

theorem displacementByte_displacement (b : Byte) : displacementByte (displacement b) = b := BitVec.ofInt_toInt

theorem displacement_fits (b : Byte) : DisplacementFits (displacement b) := by
  have hle : (-2 ^ 7 : Int) ≤ b.toInt := BitVec.le_toInt b
  have hlt : b.toInt < (2 ^ 7 : Int) := BitVec.toInt_lt
  unfold DisplacementFits displacement
  omega

/-- An opcode byte whose table entry waits for a displacement gives the displacement of the byte after it. -/
theorem decode_of_opE8 {op : Byte} {mk : Int → Instr} {e8 : Int} (hop : decodeOpcode op = some (.opE8 mk))
    (hfits : decide (DisplacementFits e8) = true) (rest : List Byte) :
    decode ([op, displacementByte e8] ++ rest) = .ok (mk e8, rest) := by
  simp only [List.cons_append, List.nil_append, decode, hop, displacement_displacementByte (of_decide_eq_true hfits)]

/-- Settles O1: the table finds the entry of each encoded opcode byte, and an operand byte is its own value but for a
displacement, which reads back because it fits. -/
theorem decodeInvertsEncode : Obligations.DecodeInvertsEncode := by
  intro i rest hwf
  cases i with
  | jr e8 => exact decode_of_opE8 (mk := .jr) rfl hwf rest
  | jrNz e8 => exact decode_of_opE8 (mk := .jrNz) rfl hwf rest
  | jrZ e8 => exact decode_of_opE8 (mk := .jrZ) rfl hwf rest
  | jrNc e8 => exact decode_of_opE8 (mk := .jrNc) rfl hwf rest
  | jrC e8 => exact decode_of_opE8 (mk := .jrC) rfl hwf rest
  | _ => rfl

/-- Every instruction's encoding has the length of its format (R50, R58). -/
theorem encode_length (i : Instr) : (encode i).length = i.length := by
  cases i <;> rfl

/-- What an entry of the opcode table at the byte `op` makes of its operand bytes: a well-formed instruction, encoded as that
byte and those operands. -/
def OpcodeEntry.EncodedAs (op : Byte) : OpcodeEntry → Prop
  | .op i => encode i = [op] ∧ i.wellFormed = true
  | .opD8 mk => ∀ d8, encode (mk d8) = [op, d8] ∧ (mk d8).wellFormed = true
  | .opE8 mk => ∀ e8, encode (mk e8) = [op, displacementByte e8] ∧ (mk e8).wellFormed = decide (DisplacementFits e8)
  | .opI16 mk => ∀ b1 b2, encode (mk b1 b2) = [op, b1, b2] ∧ (mk b1 b2).wellFormed = true

theorem decodeOpcode_encodedAs {op : Byte} {entry : OpcodeEntry} (h : decodeOpcode op = some entry) :
    entry.EncodedAs op := by
  have hop : op = BitVec.ofNat 8 op.toNat := by simp
  unfold decodeOpcode at h
  split at h
  case h_71 => exact absurd h.symm (Option.some_ne_none entry)
  all_goals
    rename_i hbyte
    rw [hop, hbyte]
    cases h
    simp only [OpcodeEntry.EncodedAs]
    intros
    exact ⟨rfl, rfl⟩

/-- The instruction an entry makes of the operand bytes of its format (R55). -/
inductive OpcodeEntry.Makes : OpcodeEntry → List Byte → Instr → Prop where
  | op (i : Instr) : Makes (.op i) [] i
  | opD8 (mk : Byte → Instr) (d8 : Byte) : Makes (.opD8 mk) [d8] (mk d8)
  | opE8 (mk : Int → Instr) (b : Byte) : Makes (.opE8 mk) [b] (mk (displacement b))
  | opI16 (mk : Byte → Byte → Instr) (b1 b2 : Byte) : Makes (.opI16 mk) [b1, b2] (mk b1 b2)

theorem encode_of_makes {op : Byte} {entry : OpcodeEntry} {operands : List Byte} {i : Instr}
    (hop : decodeOpcode op = some entry) (hmakes : entry.Makes operands i) :
    encode i = op :: operands ∧ i.wellFormed = true := by
  have hencoded := decodeOpcode_encodedAs hop
  cases hmakes with
  | op i => exact hencoded
  | opD8 mk d8 => exact hencoded d8
  | opE8 mk b =>
    obtain ⟨hbytes, hwf⟩ := hencoded (displacement b)
    exact ⟨by rw [hbytes, displacementByte_displacement], by rw [hwf, decide_eq_true (displacement_fits b)]⟩
  | opI16 mk b1 b2 => exact hencoded b1 b2

/-- Everything the decoder can have done with bytes it accepts. -/
theorem decode_ok {bytes rest : List Byte} {i : Instr} (h : decode bytes = .ok (i, rest)) :
    ∃ op entry operands, bytes = op :: operands ++ rest ∧ decodeOpcode op = some entry ∧ entry.Makes operands i := by
  unfold decode at h
  split at h
  · cases h
  · rename_i op bytes
    split at h
    · cases h
    · rename_i hop
      cases h
      exact ⟨op, _, [], rfl, hop, .op _⟩
    · rename_i hop
      split at h <;> cases h
      exact ⟨op, _, [_], rfl, hop, .opD8 _ _⟩
    · rename_i hop
      split at h <;> cases h
      exact ⟨op, _, [_], rfl, hop, .opE8 _ _⟩
    · rename_i hop
      split at h <;> cases h
      exact ⟨op, _, [_, _], rfl, hop, .opI16 _ _ _⟩

/-- Settles O2: an accepted word is an opcode byte, the operand bytes of its entry and the rest, and the entry's instruction
is encoded as that byte and those operands. -/
theorem encodeInvertsDecode : Obligations.EncodeInvertsDecode := by
  intro bytes rest i h
  obtain ⟨op, entry, operands, rfl, hop, hmakes⟩ := decode_ok h
  obtain ⟨hbytes, hwf⟩ := encode_of_makes hop hmakes
  exact ⟨by rw [hbytes], hwf, encode_length i⟩

/-- Settles O3: each word is the encoding of its instruction, and CB has no entry. -/
theorem writtenOutWordsDecode : Obligations.WrittenOutWordsDecode :=
  ⟨decodeInvertsEncode .nop [] rfl,
    decodeInvertsEncode (.ldBcD16 0x04 0x02) [] rfl,
    decodeInvertsEncode (.ldSpD16 0xFF 0xFE) [] rfl,
    decodeInvertsEncode (.ldBD8 0x2A) [] rfl,
    decodeInvertsEncode (.ldMhlD8 0xFF) [] rfl,
    decodeInvertsEncode .ldMhlIncA [] rfl,
    decodeInvertsEncode .ldAMhlDec [] rfl,
    decodeInvertsEncode (.ldMa16Sp 0xC0 0x10) [] rfl,
    decodeInvertsEncode .decDe [] rfl,
    decodeInvertsEncode .incA [] rfl,
    decodeInvertsEncode .decMhl [] rfl,
    decodeInvertsEncode .addHlSp [] rfl,
    decodeInvertsEncode .addAA [] rfl,
    decodeInvertsEncode .rra [] rfl,
    show decode [0x18, displacementByte (-5)] = _ from decodeInvertsEncode (.jr (-5)) [] rfl,
    decodeInvertsEncode (.jrC 127) [] rfl,
    decodeInvertsEncode .daa [] rfl,
    decodeInvertsEncode .scf [0x76] rfl,
    rfl⟩

end Sys2Proof
end

section
/-! The spec's summary tables and the handlers (10_state.md after R13, R14, R15 and R19, 20_memory.md R35,
70_reset_and_hazards.md R165): what every handler does to PC, CYC, SP, the memory, the record of transactions, the flags and
the general registers. -/

namespace Sys2Proof.Machine

/-- A handler answers one next state: what holds of some answer holds of every one. -/
theorem holds_of_exec {i : Instr} {s t : State} {P : State → Prop} (hexec : exec i s = .next t)
    (h : ∃ u, exec i s = .next u ∧ P u) : P t := by
  obtain ⟨u, hu, hP⟩ := h
  cases hexec.symm.trans hu
  exact hP

/-! The jumps on a condition, as one family. -/

theorem exec_jrCc (cc : Cond) (e8 : Int) (s : State) : exec (Instr.jrCc e8 cc) s = jumpIf cc e8 s := by
  cases cc <;> rfl

theorem ite_bnot {α : Type} (b : Bool) (x y : α) : (if !b then x else y) = if b then y else x := by
  cases b <;> rfl

theorem nextPc_jrCc (cc : Cond) (e8 : Int) (s : State) :
    nextPc (Instr.jrCc e8 cc) s =
      if condHolds cc s.regs.f then jrTarget s.params s.regs.pc e8 else s.regs.pc + 2 := by
  cases cc with
  | nz | nc => exact (ite_bnot _ _ _).symm
  | z | c => rfl

theorem cycleCount_jrCc (cc : Cond) (e8 : Int) (s : State) :
    cycleCount (Instr.jrCc e8 cc) s = if condHolds cc s.regs.f then 12 else 8 := by
  cases cc with
  | nz | nc => exact (ite_bnot _ _ _).symm
  | z | c => rfl

theorem dataAccesses_jrCc (cc : Cond) (e8 : Int) (s : State) : dataAccesses (Instr.jrCc e8 cc) s = [] := by
  cases cc <;> rfl

/-! A record of transactions, replayed (20_memory.md R40). -/

theorem replay_append (ts us : List BusTxn) (m : Memory) :
    replay (ts ++ us) m = (replay ts m).bind (replay us) := by
  induction ts generalizing m with
  | nil => rfl
  | cons x ts ih =>
    cases x with
    | read a v =>
      simp only [List.cons_append, replay]
      split
      · exact ih m
      · rfl
    | write a v => exact ih _

theorem replay_read_self (a : Word) (ts : List BusTxn) (s : State) :
    replay (.read a (s.byteAt a) :: ts) s.mem = replay ts s.mem := if_pos rfl

/-- The address a transaction writes, if it is a write. -/
def BusTxn.written : BusTxn → Option Word
  | .read _ _ => none
  | .write a _ => some a

/-- A replay leaves every byte that no transaction of it writes. -/
theorem replay_get {ts : List BusTxn} {m m' : Memory} {a : Word} (h : replay ts m = some m')
    (ha : a ∉ ts.filterMap BusTxn.written) : Memory.get m' a.toNat = Memory.get m a.toNat := by
  induction ts generalizing m with
  | nil => rw [Option.some.inj h]
  | cons x ts ih =>
    cases x with
    | read b v =>
      simp only [replay] at h
      split at h
      · exact ih h ha
      · cases h
    | write b v =>
      obtain ⟨hab, hats⟩ := not_or.mp (List.mem_cons.not.mp ha)
      rw [ih h hats, Memory.get_set, if_neg (BitVec.toNat_inj.not.mpr hab)]

theorem replay_wf {ts : List BusTxn} {m m' : Memory} (h : replay ts m = some m') (hm : Memory.wf m) : Memory.wf m' := by
  induction ts generalizing m with
  | nil => exact Option.some.inj h ▸ hm
  | cons x ts ih =>
    cases x with
    | read b v =>
      simp only [replay] at h
      split at h
      · exact ih h hm
      · cases h
    | write b v => exact ih h (Memory.set_wf hm b.isLt)

/-! PC, CYC, SP, the memory and the record. -/

/-- What a handler leaves, by the tables: PC, CYC and the record as listed, the memory as the listed accesses make it, and SP,
the latch and the parameters as they were. -/
structure FollowsTables (i : Instr) (s t : State) : Prop where
  pc : t.regs.pc = nextPc i s
  cyc : t.cyc = s.cyc + cycleCount i s
  bus : t.bus = s.bus ++ dataAccesses i s
  mem : replay (dataAccesses i s) s.mem = some t.mem
  sp : writesSp i = false → SameSp s t
  latchAndParams : SameLatchAndParams s t

theorem jrCc_followsTables (cc : Cond) (e8 : Int) (s : State) :
    ∃ t, exec (Instr.jrCc e8 cc) s = .next t ∧ FollowsTables (Instr.jrCc e8 cc) s t := by
  refine ⟨_, (exec_jrCc cc e8 s).trans (jumpIf_eq cc e8 s), (nextPc_jrCc cc e8 s).symm, ?cyc, ?bus, ?mem, fun _ => rfl,
    rfl, rfl⟩
  case cyc => rw [cycleCount_jrCc]
  case bus => rw [dataAccesses_jrCc, List.append_nil]
  case mem => rw [dataAccesses_jrCc]; rfl

/-- The handlers, by the data accesses the table lists: none, one read, one write, a read and a write, two writes. -/
theorem exec_followsTables (i : Instr) (s : State) : ∃ t, exec i s = .next t ∧ FollowsTables i s t := by
  cases i with
  | jrNz e8 => exact jrCc_followsTables .nz e8 s
  | jrZ e8 => exact jrCc_followsTables .z e8 s
  | jrNc e8 => exact jrCc_followsTables .nc e8 s
  | jrC e8 => exact jrCc_followsTables .c e8 s
  | ldSpD16 | incSp | decSp => exact ⟨_, rfl, rfl, rfl, (List.append_nil _).symm, rfl, nofun, rfl, rfl⟩
  | ldAMbc | ldAMde | ldAMhlInc | ldAMhlDec | addAMhl =>
    exact ⟨_, rfl, rfl, rfl, rfl, replay_read_self _ [] s, fun _ => rfl, rfl, rfl⟩
  | ldMhlD8 | ldMbcA | ldMdeA | ldMhlIncA | ldMhlDecA => exact ⟨_, rfl, rfl, rfl, rfl, rfl, fun _ => rfl, rfl, rfl⟩
  | incMhl | decMhl =>
    exact ⟨_, rfl, rfl, rfl, List.append_assoc _ _ _, replay_read_self _ [_] s, fun _ => rfl, rfl, rfl⟩
  | ldMa16Sp => exact ⟨_, rfl, rfl, rfl, List.append_assoc _ _ _, rfl, fun _ => rfl, rfl, rfl⟩
  | _ => exact ⟨_, rfl, rfl, rfl, (List.append_nil _).symm, rfl, fun _ => rfl, rfl, rfl⟩

theorem followsTables_of_exec {i : Instr} {s t : State} (h : exec i s = .next t) : FollowsTables i s t :=
  holds_of_exec h (exec_followsTables i s)

theorem cycleCount_values (i : Instr) (s : State) :
    cycleCount i s = 4 ∨ cycleCount i s = 8 ∨ cycleCount i s = 12 ∨ cycleCount i s = 20 := by
  cases i with
  | jrNz | jrZ | jrNc | jrC => simp only [cycleCount]; split <;> decide
  | _ => simp only [cycleCount]; decide

/-- The addresses an instruction stores to are those of the writes among its data accesses. -/
theorem storedAddresses_eq (i : Instr) (s : State) :
    storedAddresses i s = (dataAccesses i s).filterMap BusTxn.written := by
  cases i <;> rfl

/-- Settles O9: every handler ends in `ret`, which touches neither the latch nor the parameters. -/
theorem everyInstructionCompletes : Obligations.EveryInstructionCompletes := exec_completes

/-- Settles O10: a handler adds its row of the table, and the step that latches leaves CYC. -/
theorem cycleCountsFollowTheTable : Obligations.CycleCountsFollowTheTable := by
  refine ⟨fun i s => ?handler, fun s hclear hop => ⟨_, step_of_noHandler hclear hop, State.raise_cyc _ _⟩⟩
  case handler =>
    obtain ⟨t, hexec, hfollows⟩ := exec_followsTables i s
    exact ⟨t, hexec, hfollows.cyc, cycleCount_values i s⟩

/-- Settles O11: the PC clause of what a handler leaves by the tables. -/
theorem nextPcFollowsTheTable : Obligations.NextPcFollowsTheTable := by
  intro i s
  obtain ⟨t, hexec, hfollows⟩ := exec_followsTables i s
  exact ⟨t, hexec, hfollows.pc⟩

/-- Settles O21: the memory after the handler is the replay of its data accesses, which leaves what none of them writes. -/
theorem memoryFrame : Obligations.MemoryFrame := by
  intro i s t hexec a ha
  exact replay_get (followsTables_of_exec hexec).mem (storedAddresses_eq i s ▸ ha)

theorem updateMhl_next (op : Byte → Alu8) (s : State) :
    ∃ t, updateMhl op s = .next t ∧
      t.mem = (memWrite (s.getView .hl) (op (s.byteAt (s.getView .hl))).result (memRead (s.getView .hl) s).2).mem ∧
      t.bus = s.bus ++ [.read (s.getView .hl) (s.byteAt (s.getView .hl)),
        .write (s.getView .hl) (op (s.byteAt (s.getView .hl))).result] :=
  ⟨_, updateMhl_eq op s, rfl, List.append_assoc _ _ _⟩

/-- Settles O54: both handlers update the byte at HL, and the byte written is the one that is there afterwards. -/
theorem byteAtHlIsReadThenWritten : Obligations.ByteAtHlIsReadThenWritten := by
  intro i s hi
  obtain ⟨op, hexec⟩ : ∃ op, exec i s = updateMhl op s := by
    rcases hi with rfl | rfl
    · exact ⟨_, exec_incMhl s⟩
    · exact ⟨_, exec_decMhl s⟩
  obtain ⟨t, hnext, hmem, hbus⟩ := updateMhl_next op s
  exact ⟨t, hexec.trans hnext, by rw [hbus, byteAt_of_mem_memWrite hmem]⟩

/-! The general registers. -/

/-- The handlers, by the registers they write: one, a pair, A and HL, none. -/
theorem exec_sameRegsBut (i : Instr) (s : State) : ∃ t, exec i s = .next t ∧ SameRegsBut (regsWritten i) s t := by
  cases i with
  | ldBD8 | ldCD8 | ldDD8 | ldED8 | ldHD8 | ldLD8 | ldAD8 | ldAMbc | ldAMde =>
    exact ⟨_, rfl, sameRegsBut_of_regs_set8 _ rfl⟩
  | incB | incC | incD | incE | incH | incL | incA | decB | decC | decD | decE | decH | decL | decA
  | addAB | addAC | addAD | addAE | addAH | addAL | addAA | addAMhl | addAD8 | rlca | rla | rrca | rra | daa =>
    exact ⟨_, rfl, sameRegsBut_of_regs_set8_withFPc _ rfl⟩
  | ldBcD16 | incBc | decBc => exact ⟨_, rfl, sameRegsBut_of_regs_setView .bc rfl⟩
  | ldDeD16 | incDe | decDe => exact ⟨_, rfl, sameRegsBut_of_regs_setView .de rfl⟩
  | ldHlD16 | incHl | decHl | ldMhlIncA | ldMhlDecA => exact ⟨_, rfl, sameRegsBut_of_regs_setView .hl rfl⟩
  | addHlBc | addHlDe | addHlHl | addHlSp => exact ⟨_, rfl, sameRegsBut_of_regs_setView_withFPc .hl rfl⟩
  | ldAMhlInc =>
    obtain ⟨t, hexec, -, -, -, -, hregs, -⟩ := (loadsAThenMovesHl s).1
    exact ⟨t, hexec, hregs⟩
  | ldAMhlDec =>
    obtain ⟨t, hexec, -, -, -, -, hregs, -⟩ := (loadsAThenMovesHl s).2
    exact ⟨t, hexec, hregs⟩
  | ldSpD16 | incSp | decSp => exact ⟨_, rfl, sameRegsBut_of_regs_withSpPc [] rfl⟩
  | incMhl | decMhl | scf => exact ⟨_, rfl, sameRegsBut_of_regs_withFPc [] rfl⟩
  | jrNz e8 => exact ⟨_, jumpIf_eq .nz e8 s, sameRegsBut_of_regs_withPc [] rfl⟩
  | jrZ e8 => exact ⟨_, jumpIf_eq .z e8 s, sameRegsBut_of_regs_withPc [] rfl⟩
  | jrNc e8 => exact ⟨_, jumpIf_eq .nc e8 s, sameRegsBut_of_regs_withPc [] rfl⟩
  | jrC e8 => exact ⟨_, jumpIf_eq .c e8 s, sameRegsBut_of_regs_withPc [] rfl⟩
  | nop | ldMbcA | ldMdeA | ldMhlD8 | ldMa16Sp | jr => exact ⟨_, rfl, sameRegsBut_of_regs_withPc [] rfl⟩

/-- Settles O19: the registers a handler writes are the listed ones. -/
theorem generalRegistersFrame : Obligations.GeneralRegistersFrame := fun i s _ hexec =>
  holds_of_exec hexec (exec_sameRegsBut i s)

/-! The flags. -/

/-- The state with other values in F and CYC, which no handler reads but for the four flags. -/
def State.withFCyc (f : Byte) (cyc : Nat) (s : State) : State := { s with regs := { s.regs with f := f }, cyc := cyc }

/-- The flag outputs `o` a handler writes back to F: none for a flag the table does not list, and the same whatever else than
the flags stands in F, and whatever CYC is. -/
structure WritesFlags (i : Instr) (s t : State) (o : FlagOut) : Prop where
  f : t.regs.f = writeFlags o s.regs.f
  unlisted : ∀ fl, fl ∉ flagsWritten i → flagOut o fl = none
  unread : ∀ f cyc, (∀ fl, getFlag fl f = s.flag fl) →
    exec i (s.withFCyc f cyc) = .next (t.withFCyc (writeFlags o f) (cyc + cycleCount i s))

theorem flagOut_none_of_c {o : FlagOut} (h : o.c = none) (fl : Flag) (hfl : fl ∉ [Flag.z, .n, .h]) :
    flagOut o fl = none := by
  cases fl with
  | c => exact h
  | z | n | h => exact absurd (by decide) hfl

theorem flagOut_none_of_z {o : FlagOut} (h : o.z = none) (fl : Flag) (hfl : fl ∉ [Flag.n, .h, .c]) :
    flagOut o fl = none := by
  cases fl with
  | z => exact h
  | n | h | c => exact absurd (by decide) hfl

theorem flagOut_none_of_n {o : FlagOut} (h : o.n = none) (fl : Flag) (hfl : fl ∉ [Flag.z, .h, .c]) :
    flagOut o fl = none := by
  cases fl with
  | n => exact h
  | z | h | c => exact absurd (by decide) hfl

theorem flagOut_none_of_allListed (o : FlagOut) (fl : Flag) (hfl : fl ∉ [Flag.z, .n, .h, .c]) : flagOut o fl = none := by
  cases fl with
  | z | n | h | c => exact absurd (by decide) hfl

theorem flagOut_empty (fl : Flag) : flagOut {} fl = none := by
  cases fl <;> rfl

theorem condHolds_congr {f g : Byte} (h : ∀ fl, getFlag fl f = getFlag fl g) (cc : Cond) :
    condHolds cc f = condHolds cc g := by
  cases cc <;> simp only [condHolds, h]

theorem jrCc_writesFlags (cc : Cond) (e8 : Int) (s : State) :
    ∃ t, exec (Instr.jrCc e8 cc) s = .next t ∧ ∃ o, WritesFlags (Instr.jrCc e8 cc) s t o := by
  refine ⟨_, (exec_jrCc cc e8 s).trans (jumpIf_eq cc e8 s), {}, rfl, fun fl _ => flagOut_empty fl, fun f cyc hf => ?_⟩
  rw [exec_jrCc, jumpIf_eq, cycleCount_jrCc, ← condHolds_congr hf]
  rfl

theorem flag_withFCyc {s : State} {f : Byte} (hf : ∀ fl, getFlag fl f = s.flag fl) (cyc : Nat) (fl : Flag) :
    (s.withFCyc f cyc).flag fl = s.flag fl := hf fl

/-- The handlers, by the primitive whose flags they write; RLA, RRA, DAA and the conditional jumps also read flags. -/
theorem exec_writesFlags (i : Instr) (s : State) : ∃ t, exec i s = .next t ∧ ∃ o, WritesFlags i s t o := by
  cases i with
  | incB | incC | incD | incE | incH | incL | incA | incMhl =>
    exact ⟨_, rfl, (add8 _ _).flags, rfl, flagOut_none_of_c rfl, fun _ _ _ => rfl⟩
  | decB | decC | decD | decE | decH | decL | decA | decMhl =>
    exact ⟨_, rfl, (sub8 _ _).flags, rfl, flagOut_none_of_c rfl, fun _ _ _ => rfl⟩
  | addHlBc | addHlDe | addHlHl | addHlSp =>
    exact ⟨_, rfl, (add16 _ _).flags, rfl, flagOut_none_of_z rfl, fun _ _ _ => rfl⟩
  | addAB | addAC | addAD | addAE | addAH | addAL | addAA | addAMhl | addAD8 =>
    exact ⟨_, rfl, (addWithCarryOut _ _).flags, rfl, flagOut_none_of_allListed _, fun _ _ _ => rfl⟩
  | rlca => exact ⟨_, rfl, (rotateLeft _ _ _).flags, rfl, flagOut_none_of_allListed _, fun _ _ _ => rfl⟩
  | rrca => exact ⟨_, rfl, (rotateRight _ _ _).flags, rfl, flagOut_none_of_allListed _, fun _ _ _ => rfl⟩
  | rla =>
    refine ⟨_, rfl, (rotateLeft _ _ _).flags, rfl, flagOut_none_of_allListed _, fun f cyc hf => ?_⟩
    rw [exec_rla, flag_withFCyc hf]
    rfl
  | rra =>
    refine ⟨_, rfl, (rotateRight _ _ _).flags, rfl, flagOut_none_of_allListed _, fun f cyc hf => ?_⟩
    rw [exec_rra, flag_withFCyc hf]
    rfl
  | daa =>
    refine ⟨_, rfl, (decimalAdjust _ _ _ _).flags, rfl, flagOut_none_of_n rfl, fun f cyc hf => ?_⟩
    rw [exec_daa, execDaa_eq, flag_withFCyc hf, flag_withFCyc hf, flag_withFCyc hf]
    rfl
  | scf => exact ⟨_, rfl, setCarryFlags, rfl, flagOut_none_of_z rfl, fun _ _ _ => rfl⟩
  | jrNz e8 => exact jrCc_writesFlags .nz e8 s
  | jrZ e8 => exact jrCc_writesFlags .z e8 s
  | jrNc e8 => exact jrCc_writesFlags .nc e8 s
  | jrC e8 => exact jrCc_writesFlags .c e8 s
  | _ => exact ⟨_, rfl, {}, rfl, fun fl _ => flagOut_empty fl, fun _ _ _ => rfl⟩

/-- Settles O20: a flag without an output keeps its value, and F[3:0] is written by none. -/
theorem flagsFrame : Obligations.FlagsFrame := by
  intro i s t hexec
  obtain ⟨o, hflags⟩ := holds_of_exec hexec (exec_writesFlags i s)
  refine ⟨fun fl hfl => ?_, sameLowF_of_writeFlags hflags.f⟩
  rw [flag_of_writeFlags fl hflags.f, hflags.unlisted fl hfl]
  rfl

end Sys2Proof.Machine
end

section
/-! What a handler can depend on: two states that differ only where an instruction does not read have the same effect
(10_state.md R11, R14, 00_scope.md R3 and R4, 20_memory.md R31). -/

namespace Sys2Proof.Machine

/-! SP (R14). -/

theorem jumpIf_setSp (cc : Cond) (e8 : Int) (s : State) (v : Word) :
    ∃ t, jumpIf cc e8 s = .next t ∧ jumpIf cc e8 (s.setSp v) = .next (t.setSp v) :=
  ⟨_, jumpIf_eq cc e8 s, jumpIf_eq cc e8 (s.setSp v)⟩

/-- Only INC SP, DEC SP, ADD HL,SP and LD (a16),SP read SP, and LD SP,d16 overwrites it. -/
theorem exec_setSp {i : Instr} (hwrites : writesSp i = false) (hadd : i ≠ .addHlSp) (hstore : ∀ b1 b2, i ≠ .ldMa16Sp b1 b2)
    (s : State) (v : Word) : ∃ t, exec i s = .next t ∧ exec i (s.setSp v) = .next (t.setSp v) := by
  cases i with
  | ldSpD16 | incSp | decSp => cases hwrites
  | addHlSp => exact absurd rfl hadd
  | ldMa16Sp b1 b2 => exact absurd rfl (hstore b1 b2)
  | jrNz e8 => exact jumpIf_setSp .nz e8 s v
  | jrZ e8 => exact jumpIf_setSp .z e8 s v
  | jrNc e8 => exact jumpIf_setSp .nc e8 s v
  | jrC e8 => exact jumpIf_setSp .c e8 s v
  | _ => exact ⟨_, rfl, rfl⟩

/-- Settles O22: the forms that do not write SP leave it, those that do not read it commute with a write of it, and LD SP,d16
overwrites it. -/
theorem stackPointerReadersAndWriters : Obligations.StackPointerReadersAndWriters :=
  ⟨fun _ _ _ hexec => (followsTables_of_exec hexec).sp,
    fun _ s _ v hexec hwrites hadd hstore => holds_of_exec hexec (exec_setSp hwrites hadd hstore s v),
    fun _ _ _ _ => ⟨_, rfl, rfl⟩⟩

/-! The parameters (R3, R4). -/

theorem jrTarget_congr {p q : Params} (h : p.jrBase = q.jrBase) (pc : Word) (e8 : Int) :
    jrTarget p pc e8 = jrTarget q pc e8 := by
  unfold jrTarget
  rw [h]

theorem imm16_congr {p q : Params} (h : p.imm16First = q.imm16First) (b1 b2 : Byte) : imm16 p b1 b2 = imm16 q b1 b2 := by
  unfold imm16
  rw [h]

/-- An instruction with neither a displacement nor a 16-bit immediate. -/
theorem exec_withParams_of_neither {i : Instr} (hlength : i.length ≠ 3)
    (hjump : ∀ e8, i ≠ .jr e8 ∧ ∀ cc, i ≠ Instr.jrCc e8 cc)
    (s : State) (p : Params) : ∃ t, exec i s = .next t ∧ exec i { s with params := p } = .next { t with params := p } := by
  cases i with
  | ldBcD16 | ldDeD16 | ldHlD16 | ldSpD16 | ldMa16Sp => exact absurd rfl hlength
  | jr e8 => exact absurd rfl (hjump e8).1
  | jrNz e8 => exact absurd rfl ((hjump e8).2 .nz)
  | jrZ e8 => exact absurd rfl ((hjump e8).2 .z)
  | jrNc e8 => exact absurd rfl ((hjump e8).2 .nc)
  | jrC e8 => exact absurd rfl ((hjump e8).2 .c)
  | _ => exact ⟨_, rfl, rfl⟩

theorem exec_withParams_of_jump {i : Instr} {e8 : Int} (hjump : i = .jr e8 ∨ ∃ cc, i = Instr.jrCc e8 cc) {s : State}
    {p : Params}
    (hbase : p.jrBase = s.params.jrBase) :
    ∃ t, exec i s = .next t ∧ exec i { s with params := p } = .next { t with params := p } := by
  rcases hjump with rfl | ⟨cc, rfl⟩
  · refine ⟨_, (exec_jr e8 s).trans (execJr_eq e8 s), ?_⟩
    rw [exec_jr, execJr_eq, jrTarget_congr hbase]
  · refine ⟨_, (exec_jrCc cc e8 s).trans (jumpIf_eq cc e8 s), ?_⟩
    rw [exec_jrCc, jumpIf_eq, jrTarget_congr hbase]

theorem loadPairImm_withParams {s : State} {p : Params} (hfirst : p.imm16First = s.params.imm16First) (q : Pair)
    (b1 b2 : Byte) :
    ∃ t, loadPairImm q b1 b2 s = .next t ∧ loadPairImm q b1 b2 { s with params := p } = .next { t with params := p } := by
  refine ⟨_, loadPairImm_eq q b1 b2 s, ?_⟩
  rw [loadPairImm_eq, imm16_congr hfirst]

theorem exec_withParams_of_imm16 {i : Instr} (hlength : i.length = 3) {s : State} {p : Params}
    (hfirst : p.imm16First = s.params.imm16First) :
    ∃ t, exec i s = .next t ∧ exec i { s with params := p } = .next { t with params := p } := by
  cases i with
  | ldBcD16 b1 b2 => exact loadPairImm_withParams hfirst .bc b1 b2
  | ldDeD16 b1 b2 => exact loadPairImm_withParams hfirst .de b1 b2
  | ldHlD16 b1 b2 => exact loadPairImm_withParams hfirst .hl b1 b2
  | ldSpD16 b1 b2 =>
    refine ⟨_, (exec_ldSpD16 b1 b2 s).trans (execLdSpD16_eq b1 b2 s), ?_⟩
    rw [exec_ldSpD16, execLdSpD16_eq, imm16_congr hfirst]
  | ldMa16Sp b1 b2 =>
    refine ⟨_, (exec_ldMa16Sp b1 b2 s).trans (execLdMa16Sp_eq b1 b2 s), ?_⟩
    rw [exec_ldMa16Sp, execLdMa16Sp_eq, imm16_congr hfirst]
    rfl
  | _ => cases hlength

/-- Settles O24: one clause for each of the three kinds of instruction. -/
theorem parametersGovernJumpsAndImmediates : Obligations.ParametersGovernJumpsAndImmediates := fun _ s _ p hexec =>
  ⟨fun hlength hjump => holds_of_exec hexec (exec_withParams_of_neither hlength hjump s p),
    fun ⟨_, hjump⟩ hbase => holds_of_exec hexec (exec_withParams_of_jump hjump hbase),
    fun hlength hfirst => holds_of_exec hexec (exec_withParams_of_imm16 hlength hfirst)⟩

/-! The memory: a handler reads what its data accesses read (R31). -/

/-- The state with another memory behind the bus. -/
def State.withMem (m : Memory) (s : State) : State := { s with mem := m }

/-- A memory that answers every read of a record of transactions with the byte recorded. -/
def AnswersReads (m : Memory) (ts : List BusTxn) : Prop := ∀ a v, BusTxn.read a v ∈ ts → Memory.get m a.toNat = v

theorem State.getView_withMem (m : Memory) (s : State) (p : View) : (s.withMem m).getView p = s.getView p := rfl

section Reads
variable {s : State} {m : Memory} {a : Word} {ts : List BusTxn}

theorem State.byteAt_withMem (h : AnswersReads m (.read a (s.byteAt a) :: ts)) : (s.withMem m).byteAt a = s.byteAt a :=
  h a (s.byteAt a) List.mem_cons_self

theorem memRead_withMem (h : AnswersReads m (.read a (s.byteAt a) :: ts)) :
    memRead a (s.withMem m) = (s.byteAt a, (memRead a s).2.withMem m) := by
  unfold memRead
  rw [State.byteAt_withMem h]
  rfl

theorem loadA_withMem {p : Pair} (h : AnswersReads m [.read (s.getView p.view) (s.byteAt (s.getView p.view))]) :
    ∃ t, loadA p s = .next t ∧ ∃ m', loadA p (s.withMem m) = .next (t.withMem m') := by
  refine ⟨_, loadA_eq p s, m, ?_⟩
  simp only [loadA_eq, State.getView_withMem, State.byteAt_withMem h, memRead_withMem h]
  rfl

theorem loadAMoveHl_withMem {move : Word → Word} (h : AnswersReads m [.read (s.getView .hl) (s.byteAt (s.getView .hl))]) :
    ∃ t, loadAMoveHl move s = .next t ∧ ∃ m', loadAMoveHl move (s.withMem m) = .next (t.withMem m') := by
  refine ⟨_, loadAMoveHl_eq move s, m, ?_⟩
  simp only [loadAMoveHl_eq, State.getView_withMem, State.byteAt_withMem h, memRead_withMem h]
  rfl

theorem updateMhl_withMem {op : Byte → Alu8} (h : AnswersReads m (.read (s.getView .hl) (s.byteAt (s.getView .hl)) :: ts)) :
    ∃ t, updateMhl op s = .next t ∧ ∃ m', updateMhl op (s.withMem m) = .next (t.withMem m') := by
  refine ⟨_, updateMhl_eq op s, Memory.set m (s.getView .hl).toNat (op (s.byteAt (s.getView .hl))).result, ?_⟩
  simp only [updateMhl_eq, State.getView_withMem, State.byteAt_withMem h, memRead_withMem h]
  rfl

theorem addAMhl_withMem (h : AnswersReads m [.read (s.getView .hl) (s.byteAt (s.getView .hl))]) :
    ∃ t, exec .addAMhl s = .next t ∧ ∃ m', exec .addAMhl (s.withMem m) = .next (t.withMem m') := by
  refine ⟨_, exec_addAMhl s, m, ?_⟩
  simp only [exec_addAMhl, State.getView_withMem, State.byteAt_withMem h, memRead_withMem h]
  rfl

end Reads

/-- On a memory that answers the handler's reads alike, the handler leaves the same but for the memory. -/
theorem exec_withMem {i : Instr} {s : State} {m : Memory} (h : AnswersReads m (dataAccesses i s)) :
    ∃ t, exec i s = .next t ∧ ∃ m', exec i (s.withMem m) = .next (t.withMem m') := by
  cases i with
  | ldAMbc => exact loadA_withMem (p := .bc) h
  | ldAMde => exact loadA_withMem (p := .de) h
  | ldAMhlInc => exact loadAMoveHl_withMem (move := (· + 1)) h
  | ldAMhlDec => exact loadAMoveHl_withMem (move := (· - 1)) h
  | addAMhl => exact addAMhl_withMem h
  | incMhl => exact updateMhl_withMem (op := (add8 · 1)) h
  | decMhl => exact updateMhl_withMem (op := (sub8 · 1)) h
  | jrNz e8 => exact ⟨_, jumpIf_eq .nz e8 s, m, jumpIf_eq .nz e8 (s.withMem m)⟩
  | jrZ e8 => exact ⟨_, jumpIf_eq .z e8 s, m, jumpIf_eq .z e8 (s.withMem m)⟩
  | jrNc e8 => exact ⟨_, jumpIf_eq .nc e8 s, m, jumpIf_eq .nc e8 (s.withMem m)⟩
  | jrC e8 => exact ⟨_, jumpIf_eq .c e8 s, m, jumpIf_eq .c e8 (s.withMem m)⟩
  | _ => exact ⟨_, rfl, _, rfl⟩

end Sys2Proof.Machine
end

section
/-! The dispatch step (41_step_nop.md R80): what a fetch leaves, and the step as the handler run on it; from it the laws of a
step and of histories of steps and outside events. -/

namespace Sys2Proof.Machine

/-! The fetch: it changes the record alone, and its record replays on the memory it reads. -/

/-- The state after the opcode byte is read. -/
def State.opcodeRead (s : State) : State := { s with bus := [.read s.regs.pc (s.byteAt s.regs.pc)] }

/-- What a fetch of the instruction `i` leaves in the record of transactions: reads alone, the opcode byte first. -/
structure Fetched (s : State) (entry : OpcodeEntry) (i : Instr) (reads : List BusTxn) : Prop where
  found : decodeOpcode (s.byteAt s.regs.pc) = some entry
  operands : fetchOperands entry s.opcodeRead = (i, { s with bus := reads })
  opcodeFirst : reads.head? = some (.read s.regs.pc (s.byteAt s.regs.pc))
  replays : replay reads s.mem = some s.mem

theorem fetched_of_entry {s : State} {entry : OpcodeEntry} (h : decodeOpcode (s.byteAt s.regs.pc) = some entry) :
    ∃ i reads, Fetched s entry i reads := by
  have hreplay (ts : List BusTxn) (hts : replay ts s.mem = some s.mem) :
      replay (.read s.regs.pc (s.byteAt s.regs.pc) :: ts) s.mem = some s.mem := (replay_read_self _ ts s).trans hts
  have hnext (a : Word) : replay [.read a (s.byteAt a)] s.mem = some s.mem := replay_read_self a [] s
  cases entry with
  | op i => exact ⟨_, _, h, rfl, rfl, hreplay [] rfl⟩
  | opD8 mk => exact ⟨_, _, h, rfl, rfl, hreplay [_] (hnext _)⟩
  | opE8 mk => exact ⟨_, _, h, rfl, rfl, hreplay [_] (hnext _)⟩
  | opI16 mk => exact ⟨_, _, h, rfl, rfl, hreplay [_, _] ((replay_read_self _ [_] s).trans (hnext _))⟩

theorem fetched_of_operands {s : State} {entry : OpcodeEntry} {i : Instr} {reads : List BusTxn}
    (hfound : decodeOpcode (s.byteAt s.regs.pc) = some entry)
    (hoperands : fetchOperands entry s.opcodeRead = (i, { s with bus := reads })) : Fetched s entry i reads := by
  obtain ⟨j, reads', hfetched⟩ := fetched_of_entry hfound
  obtain ⟨rfl, hstate⟩ := Prod.mk.inj (hfetched.operands.symm.trans hoperands)
  obtain rfl : reads' = reads := congrArg State.bus hstate
  exact hfetched

theorem step_of_fetched {s : State} {entry : OpcodeEntry} {i : Instr} {reads : List BusTxn}
    (h : Fetched s entry i reads) (hclear : s.fault = none) : step s = exec i { s with bus := reads } := by
  have hoperands := h.operands
  rw [State.opcodeRead] at hoperands
  rw [step_of_entry hclear h.found, hoperands]

theorem step_of_noEntry {s : State} (hclear : s.fault = none) (h : decodeOpcode (s.byteAt s.regs.pc) = none) :
    step s = .next (s.opcodeRead.raise (.noHandler (s.byteAt s.regs.pc) s.regs.pc)) :=
  step_of_noHandler hclear ((decodeOpcode_eq_none_iff _).mp h)

/-- A step with FAULT clear: it fetches and runs a handler, or it latches. -/
theorem step_cases {s : State} (hclear : s.fault = none) :
    (∃ entry i reads t, Fetched s entry i reads ∧ exec i { s with bus := reads } = .next t ∧ step s = .next t) ∨
      (decodeOpcode (s.byteAt s.regs.pc) = none ∧
        step s = .next (s.opcodeRead.raise (.noHandler (s.byteAt s.regs.pc) s.regs.pc))) := by
  obtain hnone | ⟨entry, hentry⟩ := Option.eq_none_or_eq_some (decodeOpcode (s.byteAt s.regs.pc))
  · exact .inr ⟨hnone, step_of_noEntry hclear hnone⟩
  · obtain ⟨i, reads, hfetched⟩ := fetched_of_entry hentry
    obtain ⟨t, hexec, -⟩ := exec_completes i { s with bus := reads }
    exact .inl ⟨entry, i, reads, t, hfetched, hexec, (step_of_fetched hfetched hclear).trans hexec⟩

/-- Everything a step that answers a next state can have done: it fetched and ran a handler, or it latched. -/
theorem step_next_cases {s t : State} (h : step s = .next t) : s.fault = none ∧
    ((∃ entry i reads, Fetched s entry i reads ∧ exec i { s with bus := reads } = .next t) ∨
      (decodeOpcode (s.byteAt s.regs.pc) = none ∧
        t = s.opcodeRead.raise (.noHandler (s.byteAt s.regs.pc) s.regs.pc))) := by
  have hclear := (step_next h).1
  refine ⟨hclear, ?_⟩
  obtain ⟨entry, i, reads, u, hfetched, hexec, hstep⟩ | ⟨hnone, hstep⟩ := step_cases hclear
  · cases h.symm.trans hstep
    exact .inl ⟨entry, i, reads, hfetched, hexec⟩
  · exact .inr ⟨hnone, Host.Outcome.next.inj (h.symm.trans hstep)⟩

/-! The bytes at PC decoded (R80, R35). -/

theorem fetchReads_eq (i : Instr) (s : State) (n : Nat) (h : i.length = n + 1) :
    fetchReads i s = .read s.regs.pc (s.byteAt s.regs.pc) ::
      (List.range n).map fun k =>
        .read (s.regs.pc + BitVec.ofNat 16 (k + 1)) (s.byteAt (s.regs.pc + BitVec.ofNat 16 (k + 1))) := by
  rw [fetchReads, h, List.range_succ_eq_map, List.map_cons, List.map_map]
  simp only [BitVec.add_zero]
  rfl

/-- The operand bytes of the instruction that the bytes at PC decode to are read in address order. -/
theorem fetchOperands_of_decode {s : State} {entry : OpcodeEntry} {operands rest : List Byte} {i : Instr}
    (hbytes : bytesAtPc s = s.byteAt s.regs.pc :: operands ++ rest) (hlength : i.length = operands.length + 1)
    (hmakes : entry.Makes operands i) : fetchOperands entry s.opcodeRead = (i, { s with bus := fetchReads i s }) := by
  rw [fetchReads_eq i s _ hlength]
  cases hmakes with
  | op i => rfl
  | opD8 mk d8 =>
    cases hbytes
    rfl
  | opE8 mk b =>
    cases hbytes
    rfl
  | opI16 mk b1 b2 =>
    cases hbytes
    rfl

theorem fetched_of_decode {s : State} {i : Instr} {rest : List Byte} (h : decode (bytesAtPc s) = .ok (i, rest)) :
    ∃ entry, Fetched s entry i (fetchReads i s) := by
  obtain ⟨op, entry, operands, hbytes, hop, hmakes⟩ := decode_ok h
  obtain rfl : s.byteAt s.regs.pc = op := (List.cons.inj hbytes).1
  have hlength : i.length = operands.length + 1 := by
    rw [← encode_length, (encode_of_makes hop hmakes).1, List.length_cons]
  exact ⟨entry, fetched_of_operands hop (fetchOperands_of_decode hbytes hlength hmakes)⟩

theorem step_of_decode {s : State} {i : Instr} {rest : List Byte} (hclear : s.fault = none)
    (h : decode (bytesAtPc s) = .ok (i, rest)) : step s = exec i (fetchedState i s) := by
  obtain ⟨entry, hfetched⟩ := fetched_of_decode h
  exact step_of_fetched hfetched hclear

/-- Settles O4: the three clauses are the three cases of a step. -/
theorem stepFetchesDecodesAndRuns : Obligations.StepFetchesDecodesAndRuns := by
  refine ⟨fun s i rest hclear hdecode => ?_, fun s hclear hop => step_of_noHandler hclear hop,
    fun s hset u hstep => hset (step_next hstep).1⟩
  have hstep := step_of_decode hclear hdecode
  obtain ⟨t, hexec, hfollows⟩ := exec_followsTables i (fetchedState i s)
  exact ⟨hstep, t, hstep.trans hexec, hfollows.cyc⟩

/-- Settles O16: the fetch leaves its reads in the record and the handler adds its data accesses. -/
theorem busAccessesFollowTheTable : Obligations.BusAccessesFollowTheTable := by
  intro s i rest hclear hdecode
  obtain ⟨t, hexec, hfollows⟩ := exec_followsTables i (fetchedState i s)
  exact ⟨t, (step_of_decode hclear hdecode).trans hexec, hfollows.bus⟩

/-- Settles O18: the store leaves the operand byte at the address that PC moves to. -/
theorem storeIsSeenByNextFetch : Obligations.StoreIsSeenByNextFetch := by
  intro s i hclear hop hhl hstored
  have hentry : decodeOpcode (s.byteAt s.regs.pc) = some (.opD8 .ldMhlD8) := by
    rw [hop]
    rfl
  obtain ⟨t, hstep, hpc, hmem, hfault⟩ : ∃ t, step s = .next t ∧ t.regs.pc = s.regs.pc + 2 ∧
      t.mem = (memWrite (s.getView .hl) (s.byteAt (s.regs.pc + 1)) s).mem ∧ t.fault = none :=
    ⟨_, (step_of_entry hclear hentry).trans (execLdMhlD8_eq _ _), rfl, rfl, hclear⟩
  have hbyte : t.byteAt t.regs.pc = s.byteAt (s.regs.pc + 1) := by
    rw [hpc, ← hhl]
    exact byteAt_of_mem_memWrite hmem
  refine ⟨t, hstep, hbyte, ?_⟩
  rw [step_of_entry hfault (hbyte ▸ hstored), fetchOperands_op, hbyte, hpc]

/-! A latched fault, and the launch (R22, R160). -/

theorem step_of_latched {s : State} {f : Fault} (h : s.fault = some f) : step s = .fault f := by
  simp only [step, h]

theorem run_core_of_fault {n : Nat} {s : State} {f : Fault} (h : step s = .fault f) :
    Host.Core.run Sys2Proof.core (n + 1) s = .fault f := by
  have hcore : Sys2Proof.core.step s = .fault f := h
  simp only [Host.Core.run, hcore]

/-- Settles O7: the run stops at its first step. -/
theorem latchedFaultStopsEveryRun : Obligations.LatchedFaultStopsEveryRun := fun _ _ _ h =>
  ⟨step_of_latched h, run_core_of_fault (step_of_latched h)⟩

theorem step_reads_opcode_first {s : State} (hclear : s.fault = none) :
    ∃ t, step s = .next t ∧ t.bus.head? = some (.read s.regs.pc (s.byteAt s.regs.pc)) := by
  obtain ⟨entry, i, reads, t, hfetched, hexec, hstep⟩ | ⟨-, hstep⟩ := step_cases hclear
  · refine ⟨t, hstep, ?_⟩
    rw [(followsTables_of_exec hexec).bus, List.head?_append, hfetched.opcodeFirst]
    rfl
  · exact ⟨_, hstep, rfl⟩

/-- Settles O8: the launch takes its three arguments as they are, and the first step reads the opcode byte first. -/
theorem launchTakesResetState : Obligations.LaunchTakesResetState := by
  intro g m p s
  refine ⟨fun x => ?_, rfl, rfl, rfl, rfl, rfl, rfl, step_reads_opcode_first rfl⟩
  cases x <;> rfl

/-! The invariant (R30, R81, R141). -/

theorem launch_inv {g : RegFile} {m : Memory} {p : Params} (hm : Memory.wf m) : State.Inv (State.launch g m p) where
  memory := hm
  cycles := rfl
  latch := nofun

/-- Settles O12: the reset is a launch on the empty memory. -/
theorem launchMeetsInvariant : Obligations.LaunchMeetsInvariant :=
  ⟨launch_inv reset_memory_wf, fun _ _ _ => launch_inv⟩

theorem cycleCount_mod_four (i : Instr) (s : State) : cycleCount i s % 4 = 0 := by
  obtain h | h | h | h := cycleCount_values i s <;> rw [h]

/-- Settles O13: a handler replays its accesses on the memory, adds a multiple of 4 and leaves the latch clear; the step that
latches names the byte it read at PC. -/
theorem stepKeepsInvariant : Obligations.StepKeepsInvariant := by
  intro s t hinv hstep
  obtain ⟨hclear, ⟨entry, i, reads, -, hexec⟩ | ⟨hnone, rfl⟩⟩ := step_next_cases hstep
  · have hfollows := followsTables_of_exec hexec
    refine ⟨replay_wf hfollows.mem hinv.memory, ?cycles, ?latch⟩
    case cycles =>
      have hcyc : t.cyc = s.cyc + cycleCount i { s with bus := reads } := hfollows.cyc
      have hs := hinv.cycles
      have hcount := cycleCount_mod_four i { s with bus := reads }
      omega
    case latch =>
      intro op pc hlatch
      have hfault : t.fault = none := hfollows.latchAndParams.1.trans hclear
      cases hfault.symm.trans hlatch
  · refine ⟨hinv.memory, hinv.cycles, fun op pc hlatch => ?_⟩
    cases hlatch
    exact ⟨Option.isNone_iff_eq_none.mpr hnone, rfl, rfl⟩

/-! Histories of events (R40, R163). -/

theorem runEvents_cons {e : Event} {es : List Event} {s t : State} (h : runEvents (e :: es) s = .next t) :
    ∃ u, applyEvent e s = .next u ∧ runEvents es u = .next t := by
  simp only [runEvents] at h
  split at h
  · exact ⟨_, ‹_›, h⟩
  · cases h
  · cases h

theorem step_replays {s t : State} (h : step s = .next t) : replay t.bus s.mem = some t.mem := by
  obtain ⟨-, ⟨entry, i, reads, hfetched, hexec⟩ | ⟨-, rfl⟩⟩ := step_next_cases h
  · have hfollows := followsTables_of_exec hexec
    rw [hfollows.bus, replay_append, hfetched.replays]
    exact hfollows.mem
  · exact replay_read_self _ [] s

theorem step_params {s t : State} (h : step s = .next t) : t.params = s.params := by
  obtain ⟨-, ⟨entry, i, reads, -, hexec⟩ | ⟨-, rfl⟩⟩ := step_next_cases h
  · exact (followsTables_of_exec hexec).latchAndParams.2
  · rfl

/-- The transactions the memory sees in one event that leaves the state `t`. -/
def busOfEvent (e : Event) (t : State) : List BusTxn :=
  match e with
  | .step => t.bus
  | .busWrite a v => [.write a v]
  | .regWrite _ _ => []
  | .relaunch _ => []

theorem busOfHistory_cons {e : Event} {es : List Event} {s t : State} (h : applyEvent e s = .next t) :
    busOfHistory (e :: es) s = busOfEvent e t ++ busOfHistory es t := by
  simp only [busOfHistory, h]
  rfl

theorem outsideWrite_mem (x : OutsideReg) (v : Nat) (s : State) : (outsideWrite x v s).mem = s.mem := by
  cases x <;> rfl

theorem outsideWrite_params (x : OutsideReg) (v : Nat) (s : State) : (outsideWrite x v s).params = s.params := by
  cases x <;> rfl

/-- One event: its transactions replay on the memory, and the parameters stay. -/
theorem applyEvent_replays {e : Event} {s t : State} (h : applyEvent e s = .next t) :
    replay (busOfEvent e t) s.mem = some t.mem ∧ t.params = s.params := by
  cases e with
  | step => exact ⟨step_replays h, step_params h⟩
  | regWrite x v =>
    cases h
    exact ⟨congrArg some (outsideWrite_mem x v s).symm, outsideWrite_params x v s⟩
  | busWrite a v =>
    cases h
    exact ⟨rfl, rfl⟩
  | relaunch g =>
    cases h
    exact ⟨rfl, rfl⟩

theorem runEvents_replays {es : List Event} {s t : State} (h : runEvents es s = .next t) :
    replay (busOfHistory es s) s.mem = some t.mem ∧ t.params = s.params := by
  induction es generalizing s with
  | nil =>
    cases h
    exact ⟨rfl, rfl⟩
  | cons e es ih =>
    obtain ⟨u, hevent, hrun⟩ := runEvents_cons h
    obtain ⟨hmem, hparams⟩ := applyEvent_replays hevent
    obtain ⟨hmem', hparams'⟩ := ih hrun
    refine ⟨?_, hparams'.trans hparams⟩
    rw [busOfHistory_cons hevent, replay_append, hmem]
    exact hmem'

/-- Settles O15, by the induction over the events. -/
theorem historyReplaysOnMemory : Obligations.HistoryReplaysOnMemory := fun _ _ _ h => (runEvents_replays h).1

/-- Settles O14: the memory at the end is a replay on the memory at the start. -/
theorem historyKeepsMemoryCanonical : Obligations.HistoryKeepsMemoryCanonical := fun _ _ _ hwf h =>
  ⟨replay_wf (runEvents_replays h).1 hwf, (runEvents_replays h).2⟩

/-! Safe runs (R81). -/

theorem safeRun_clear {n : Nat} {s : State} (h : SafeRun n s) : s.fault = none := by
  cases n with
  | zero => exact h
  | succ n => exact h.1

theorem step_cyc_of_clear {s t : State} (h : step s = .next t) (hclear : t.fault = none) :
    s.cyc + 4 ≤ t.cyc ∧ t.cyc ≤ s.cyc + 20 := by
  obtain ⟨-, ⟨entry, i, reads, -, hexec⟩ | ⟨-, rfl⟩⟩ := step_next_cases h
  · have hcyc : t.cyc = s.cyc + cycleCount i { s with bus := reads } := (followsTables_of_exec hexec).cyc
    have hcount := cycleCount_values i { s with bus := reads }
    omega
  · cases hclear

/-- Settles O53: no step of a safe run latches, so each runs a handler and adds its count. -/
theorem safeRunsBoundCycles : Obligations.SafeRunsBoundCycles := by
  intro n
  induction n with
  | zero => exact fun s hsafe => ⟨s, rfl, hsafe, by omega, by omega⟩
  | succ n ih =>
    intro s ⟨_, t, hstep, hsafe⟩
    obtain ⟨hmin, hmax⟩ := step_cyc_of_clear hstep (safeRun_clear hsafe)
    obtain ⟨u, hrun, hclear, hmin', hmax'⟩ := ih t hsafe
    exact ⟨u, (run_core_of_step hstep).trans hrun, hclear, by omega, by omega⟩

/-! What a step depends on (R11, R21, R31). -/

theorem fetchOperands_withFCyc (entry : OpcodeEntry) (f : Byte) (cyc : Nat) (s : State) :
    fetchOperands entry (s.withFCyc f cyc) = ((fetchOperands entry s).1, (fetchOperands entry s).2.withFCyc f cyc) := by
  cases entry <;> rfl

theorem RegFile.ext_of_get8 {g k : RegFile} (hregs : ∀ r, g.get8 r = k.get8 r) (hf : g.f = k.f) (hsp : g.sp = k.sp)
    (hpc : g.pc = k.pc) : g = k := by
  cases g
  cases k
  cases hregs .a
  cases hregs .b
  cases hregs .c
  cases hregs .d
  cases hregs .e
  cases hregs .h
  cases hregs .l
  cases hf
  cases hsp
  cases hpc
  rfl

/-- Two states that agree in everything that is read differ in F, CYC and the record alone. -/
theorem eq_withFCyc_of_sameButUnread {s u : State} (h : SameButUnread s u) :
    u = { s.withFCyc u.regs.f u.cyc with bus := u.bus } := by
  obtain ⟨hregs, -, hsp, hpc, hmem, hfault, hparams⟩ := h
  have hfile : u.regs = { s.regs with f := u.regs.f } :=
    RegFile.ext_of_get8 (fun r => (hregs r).trans (RegFile.get8_withF s.regs u.regs.f r).symm) rfl hsp hpc
  cases u
  cases hmem
  cases hfault
  cases hparams
  exact congrArg (State.mk · _ _ _ _ _) hfile

section OtherFCyc
variable {s t : State} {f : Byte}

theorem fetched_withFCyc {entry : OpcodeEntry} {i : Instr} {reads : List BusTxn} (h : Fetched s entry i reads) (f : Byte)
    (cyc : Nat) (bus : List BusTxn) : Fetched { s.withFCyc f cyc with bus := bus } entry i reads := by
  refine fetched_of_operands h.found ((fetchOperands_withFCyc entry f cyc s.opcodeRead).trans ?_)
  rw [h.operands]
  rfl

theorem sameButUnread_withFCyc (hf : ∀ fl, getFlag fl f = s.flag fl) (cyc : Nat) : SameButUnread s (s.withFCyc f cyc) :=
  ⟨RegFile.get8_withF s.regs f, hf, rfl, rfl, rfl, rfl, rfl⟩

/-- A step with other values in F[3:0], CYC and the record is the same step. -/
theorem step_withFCyc (hf : ∀ fl, getFlag fl f = s.flag fl) (cyc : Nat) (bus : List BusTxn) (hstep : step s = .next t) :
    ∃ w, step { s.withFCyc f cyc with bus := bus } = .next w ∧ SameButUnread t w ∧ w.bus = t.bus ∧
      w.cyc + s.cyc = t.cyc + cyc := by
  obtain ⟨hclear, ⟨entry, i, reads, hfetched, hexec⟩ | ⟨hnone, rfl⟩⟩ := step_next_cases hstep
  · obtain ⟨o, hflags⟩ := holds_of_exec hexec (exec_writesFlags i _)
    have hcyc : t.cyc = s.cyc + cycleCount i { s with bus := reads } := (followsTables_of_exec hexec).cyc
    have hf' (fl : Flag) : getFlag fl (writeFlags o f) = t.flag fl := by
      rw [getFlag_writeFlags, flag_of_writeFlags fl hflags.f, hf fl]
      rfl
    refine ⟨t.withFCyc (writeFlags o f) (cyc + cycleCount i { s with bus := reads }),
      (step_of_fetched (fetched_withFCyc hfetched f cyc bus) hclear).trans (hflags.unread f cyc hf),
      sameButUnread_withFCyc hf' _, rfl, ?_⟩
    show cyc + cycleCount i { s with bus := reads } + s.cyc = t.cyc + cyc
    omega
  · exact ⟨_, step_of_noEntry hclear hnone, sameButUnread_withFCyc (s := s.opcodeRead.raise _) hf cyc, rfl,
      Nat.add_comm cyc s.cyc⟩

end OtherFCyc

/-- Settles O23: states that agree in everything that is read differ as `step_withFCyc` asks. -/
theorem lowNibbleOfFIsNeverRead : Obligations.LowNibbleOfFIsNeverRead := by
  refine ⟨fun v s hv => ?_, fun s u t hsame hstep => ?_⟩
  · rw [outsideRead_outsideWrite_self]
    exact Nat.mod_eq_of_lt hv
  · have ⟨_, hflags, _⟩ := hsame
    rw [eq_withFCyc_of_sameButUnread hsame]
    exact step_withFCyc hflags u.cyc u.bus hstep

/-! The memory a step sees (R31, R35). -/

section OtherMemory
variable {s t : State} {m : Memory}

theorem answersReads_append {ts us : List BusTxn} (h : AnswersReads m (ts ++ us)) : AnswersReads m ts ∧ AnswersReads m us :=
  ⟨fun a v hmem => h a v (List.mem_append_left us hmem), fun a v hmem => h a v (List.mem_append_right ts hmem)⟩

theorem State.withMem_regs (m : Memory) (s : State) : (s.withMem m).regs = s.regs := rfl

theorem fetchOperands_withMem (entry : OpcodeEntry) (h : AnswersReads m (fetchOperands entry s).2.bus) :
    fetchOperands entry (s.withMem m) = ((fetchOperands entry s).1, (fetchOperands entry s).2.withMem m) := by
  cases entry with
  | op i => rfl
  | opD8 mk | opE8 mk =>
    have hread := memRead_withMem (answersReads_append h).2
    simp only [fetchOperands, State.withMem_regs, hread]
    rfl
  | opI16 mk =>
    obtain ⟨h1, h2⟩ := answersReads_append h
    have hread := memRead_withMem (answersReads_append h1).2
    have hread' := memRead_withMem (s := (memRead (s.regs.pc + 1) s).2) h2
    simp only [fetchOperands, State.withMem_regs, hread, hread']
    rfl

theorem opcodeRead_withMem (h : (s.withMem m).byteAt s.regs.pc = s.byteAt s.regs.pc) (bus : List BusTxn) :
    State.opcodeRead { s.withMem m with bus := bus } = s.opcodeRead.withMem m :=
  congrArg (fun v => { s.withMem m with bus := [.read s.regs.pc v] }) h

theorem fetched_withMem {entry : OpcodeEntry} {i : Instr} {reads : List BusTxn} (h : Fetched s entry i reads)
    (hreads : AnswersReads m reads) (bus : List BusTxn) : Fetched { s.withMem m with bus := bus } entry i reads := by
  have hbyte : (s.withMem m).byteAt s.regs.pc = s.byteAt s.regs.pc := hreads _ _ (List.mem_of_head? h.opcodeFirst)
  refine fetched_of_operands ((congrArg decodeOpcode hbyte).trans h.found) ?_
  rw [opcodeRead_withMem hbyte, fetchOperands_withMem entry (by rw [h.operands]; exact hreads), h.operands]
  rfl

/-- A step on a memory that answers its reads alike is the same step but for the memory. -/
theorem step_withMem (hreads : AnswersReads m t.bus) (bus : List BusTxn) (hstep : step s = .next t) :
    ∃ m', step { s.withMem m with bus := bus } = .next (t.withMem m') := by
  obtain ⟨hclear, ⟨entry, i, reads, hfetched, hexec⟩ | ⟨hnone, rfl⟩⟩ := step_next_cases hstep
  · rw [(followsTables_of_exec hexec).bus] at hreads
    obtain ⟨hfetch, hdata⟩ := answersReads_append hreads
    obtain ⟨m', hexec'⟩ := holds_of_exec hexec (exec_withMem hdata)
    exact ⟨m', (step_of_fetched (fetched_withMem hfetched hfetch bus) hclear).trans hexec'⟩
  · have hbyte : (s.withMem m).byteAt s.regs.pc = s.byteAt s.regs.pc := hreads _ _ List.mem_cons_self
    refine ⟨m, (step_of_noEntry (s := { s.withMem m with bus := bus }) hclear
      ((congrArg decodeOpcode hbyte).trans hnone)).trans ?_⟩
    rw [opcodeRead_withMem hbyte]
    exact congrArg (fun v => Host.Outcome.next ((s.opcodeRead.withMem m).raise (.noHandler v s.regs.pc))) hbyte

end OtherMemory

/-- Settles O17: the two states differ in the memory and the record alone. -/
theorem stepDependsOnlyOnBytesRead : Obligations.StepDependsOnlyOnBytesRead := by
  intro s u t hregs hparams hcyc hfault hstep hreads
  have hu : u = { s.withMem u.mem with bus := u.bus } := by
    cases u
    cases hregs
    cases hparams
    cases hcyc
    cases hfault
    rfl
  obtain ⟨m', hstep'⟩ := step_withMem hreads u.bus hstep
  rw [hu]
  exact ⟨t.withMem m', hstep', rfl, rfl, rfl, rfl, rfl⟩

end Sys2Proof.Machine
end

section
/-! The relative jumps (46_jumps.md R125 to R127): the target as a number over the integers, and the displacement an assembler
computes for it (30_encoding.md R59). -/

namespace Sys2Proof.Machine

/-- The target wraps once, however the sum is taken (R127). -/
theorem jrTarget_toNat (params : Params) (pc : Word) (e8 : Int) :
    ((jrTarget params pc e8).toNat : Int) = jrTargetNumber params pc e8 := by
  have hbase : (jrBaseValue params.jrBase).toNat = jrBaseNumber params := by
    unfold jrBaseNumber
    cases params.jrBase <;> rfl
  have hdisplacement : ((displacementWord e8).toNat : Int) = e8 % 65536 := by
    rw [displacementWord, BitVec.toNat_ofInt]
    exact Int.toNat_of_nonneg (Int.emod_nonneg e8 (by decide))
  rw [jrTarget, BitVec.toNat_add, BitVec.toNat_add, hbase, jrTargetNumber]
  omega

theorem condHolds_iff_condTaken (cc : Cond) (s : State) : condHolds cc s.regs.f = true ↔ CondTaken cc s := by
  cases cc with
  | nz | nc => exact iff_of_eq (Bool.not_eq_true' _)
  | z | c => exact Iff.rfl

/-- Settles O46: the handler writes PC and CYC alone. -/
theorem jumpsRelative : Obligations.JumpsRelative := fun e8 s =>
  ⟨_, (exec_jr e8 s).trans (execJr_eq e8 s), jrTarget_toNat s.params s.regs.pc e8, rfl, rfl,
    sameRegsBut_of_regs_withPc [] rfl, rfl, sameMemoryBut_of_mem_eq [] rfl, ⟨rfl, rfl⟩, rfl⟩

/-- The conditional jump where its condition holds: the jump of JR e8. -/
theorem jumpIf_taken {cc : Cond} {s : State} (h : condHolds cc s.regs.f = true) (e8 : Int) : jumpIf cc e8 s = execJr e8 s :=
  if_pos h

/-- Settles O47: the handler writes PC and CYC alone, by the condition. -/
theorem jumpsOnCondition : Obligations.JumpsOnCondition := by
  intro cc e8 s
  refine ⟨_, (exec_jrCc cc e8 s).trans (jumpIf_eq cc e8 s), fun htaken => ?taken, fun hnot => ?notTaken, rfl,
    sameRegsBut_of_regs_withPc [] rfl, rfl, sameMemoryBut_of_mem_eq [] rfl, ⟨rfl, rfl⟩, ?encoding⟩
  case taken =>
    have hholds := (condHolds_iff_condTaken cc s).mpr htaken
    exact ⟨(congrArg (fun pc : Word => (pc.toNat : Int)) (if_pos hholds)).trans (jrTarget_toNat s.params s.regs.pc e8),
      congrArg (s.cyc + ·) (if_pos hholds)⟩
  case notTaken =>
    have hfails : ¬ condHolds cc s.regs.f = true := fun h => hnot ((condHolds_iff_condTaken cc s).mp h)
    exact advanced_of_pc_cyc 2 (if_neg hfails) (congrArg (s.cyc + ·) (if_neg hfails))
  case encoding => cases cc <;> rfl

/-- The displacement from the address of the jump, and from JR_BASE, to a target reaches it. -/
theorem jrTarget_of_displacement {params : Params} {pc target : Word} {e8 : Int}
    (h : e8 = (target.toNat : Int) - (pc.toNat : Int) - (jrBaseNumber params : Int)) : jrTarget params pc e8 = target := by
  have htarget := target.isLt
  have hnumber := jrTarget_toNat params pc e8
  rw [jrTargetNumber] at hnumber
  apply BitVec.eq_of_toNat_eq
  omega

/-- Settles O48: that the displacement fits its byte is what lets an assembler encode it; the target is reached anyway. -/
theorem assembledDisplacementReachesTarget : Obligations.AssembledDisplacementReachesTarget := by
  intro s target e8 he8 _
  have htarget := jrTarget_of_displacement he8
  exact ⟨⟨_, (exec_jr e8 s).trans (execJr_eq e8 s), htarget⟩, fun cc hholds =>
    ⟨_, ((exec_jrCc cc e8 s).trans (jumpIf_taken hholds e8)).trans (execJr_eq e8 s), htarget⟩⟩

end Sys2Proof.Machine
end

section
/-! The accessor surface (10_state.md R12, R19, R24): the flag predicates as arithmetic on F, and what a write to a field or
view leaves of the others. -/

namespace Sys2Proof.Machine

theorem getFlag_eq_decide (fl : Flag) (f : Byte) : getFlag fl f = decide (f.toNat / 2 ^ flagBit fl % 2 = 1) := by
  rw [getFlag, BitVec.getLsbD, Nat.testBit_eq_decide_div_mod_eq]

/-- Settles O27: a bit of F as its quotient by a power of two. -/
theorem flagPredicatesTestOneBit : Obligations.FlagPredicatesTestOneBit := fun s =>
  ⟨getFlag_eq_decide .z s.regs.f, getFlag_eq_decide .n s.regs.f, getFlag_eq_decide .h s.regs.f, getFlag_eq_decide .c s.regs.f⟩

/-- A field with storage of its own, no view. -/
def OutsideReg.IsField (x : OutsideReg) : Prop := ∀ p, x ≠ .view p

theorem viewHalves_isField (p : View) : (viewHalves p).1.IsField ∧ (viewHalves p).2.IsField := by
  cases p <;> exact ⟨nofun, nofun⟩

theorem outsideRead_outsideWrite_of_ne {x y : OutsideReg} (hx : x.IsField) (hy : y.IsField) (hne : y ≠ x) (v : Nat)
    (s : State) :
    outsideRead y (outsideWrite x v s) = outsideRead y s := by
  cases y with
  | view p => exact absurd rfl (hy p)
  | reg8 q =>
    refine congrArg BitVec.toNat ?_
    cases x with
    | view p => exact absurd rfl (hx p)
    | reg8 r => exact (RegFile.get8_set8 s.regs r q _).trans (if_neg fun h => hne (congrArg OutsideReg.reg8 h))
    | f => exact RegFile.get8_withF s.regs _ q
    | sp => exact RegFile.get8_withSp s.regs _ q
    | pc => exact RegFile.get8_withPc s.regs _ q
  | f =>
    refine congrArg BitVec.toNat ?_
    cases x with
    | view p => exact absurd rfl (hx p)
    | f => exact absurd rfl hne
    | reg8 r => exact RegFile.set8_f s.regs r _
    | sp | pc => rfl
  | sp =>
    refine congrArg BitVec.toNat ?_
    cases x with
    | view p => exact absurd rfl (hx p)
    | sp => exact absurd rfl hne
    | reg8 r => exact RegFile.set8_sp s.regs r _
    | f | pc => rfl
  | pc =>
    refine congrArg BitVec.toNat ?_
    cases x with
    | view p => exact absurd rfl (hx p)
    | pc => exact absurd rfl hne
    | reg8 r => exact RegFile.set8_pc s.regs r _
    | f | sp => rfl

/-- A write to a view is a write to each of its halves. -/
theorem outsideWrite_view (p : View) (v : Nat) (s : State) :
    outsideWrite (.view p) v s = outsideWrite (viewHalves p).2 v (outsideWrite (viewHalves p).1 (v / 256) s) := by
  have hhigh : highByte (BitVec.ofNat 16 v) = BitVec.ofNat 8 (v / 256) := by
    apply BitVec.eq_of_toNat_eq
    rw [highByte_toNat, BitVec.toNat_ofNat, BitVec.toNat_ofNat]
    omega
  have hlow : lowByte (BitVec.ofNat 16 v) = BitVec.ofNat 8 v := by
    apply BitVec.eq_of_toNat_eq
    rw [lowByte_toNat, BitVec.toNat_ofNat, BitVec.toNat_ofNat]
    omega
  cases p <;> simp only [outsideWrite, viewHalves, State.setView, RegFile.setView, hhigh, hlow] <;> rfl

theorem mem_shared_self (x : OutsideReg) : x ∈ x.shared := by
  cases x with
  | reg8 r => cases r <;> exact List.mem_cons_self
  | f | sp | pc | view => exact List.mem_cons_self

theorem halves_not_mem_shared {x : OutsideReg} {p : View} (h : .view p ∉ x.shared) :
    (viewHalves p).1 ∉ x.shared ∧ (viewHalves p).2 ∉ x.shared := by
  revert h
  cases x with
  | reg8 r => cases r <;> cases p <;> decide
  | f | sp | pc => cases p <;> decide
  | view q => cases q <;> cases p <;> decide

/-- A field that shares no storage with what is written reads as before. -/
theorem outsideRead_field_of_not_shared {x y : OutsideReg} (hy : y.IsField) (h : y ∉ x.shared) (v : Nat) (s : State) :
    outsideRead y (outsideWrite x v s) = outsideRead y s := by
  cases x with
  | view p =>
    simp only [OutsideReg.shared, List.mem_cons, List.not_mem_nil, or_false, not_or] at h
    obtain ⟨-, hhigh, hlow⟩ := h
    obtain ⟨hhighField, hlowField⟩ := viewHalves_isField p
    rw [outsideWrite_view, outsideRead_outsideWrite_of_ne hlowField hy hlow,
      outsideRead_outsideWrite_of_ne hhighField hy hhigh]
  | reg8 | f | sp | pc =>
    exact outsideRead_outsideWrite_of_ne (by nofun) hy (fun hyx => h (hyx ▸ mem_shared_self _)) v s

/-- A view that shares no storage with what is written reads as before, through its halves. -/
theorem outsideRead_of_not_shared {x y : OutsideReg} (h : y ∉ x.shared) (v : Nat) (s : State) :
    outsideRead y (outsideWrite x v s) = outsideRead y s := by
  cases y with
  | view p =>
    obtain ⟨hhigh, hlow⟩ := halves_not_mem_shared h
    obtain ⟨hhighField, hlowField⟩ := viewHalves_isField p
    rw [outsideRead_view, outsideRead_view, outsideRead_field_of_not_shared hhighField hhigh,
      outsideRead_field_of_not_shared hlowField hlow]
  | reg8 | f | sp | pc => exact outsideRead_field_of_not_shared (by nofun) h v s

theorem outsideWrite_cyc_fault (x : OutsideReg) (v : Nat) (s : State) :
    (outsideWrite x v s).cyc = s.cyc ∧ (outsideWrite x v s).fault = s.fault := by
  cases x <;> exact ⟨rfl, rfl⟩

/-- Settles O25: the getters are the instructions' own reads; a write reads back truncated and leaves all that shares no
storage with it. -/
theorem accessorWritesTruncate : Obligations.AccessorWritesTruncate := by
  refine ⟨fun s => ⟨fun _ => rfl, rfl, rfl, rfl, fun _ => rfl⟩, fun x v s => ?_⟩
  obtain ⟨hcyc, hfault⟩ := outsideWrite_cyc_fault x v s
  exact ⟨outsideRead_outsideWrite_self x v s, fun y hy => outsideRead_of_not_shared hy v s, outsideWrite_mem x v s, hcyc,
    hfault, outsideWrite_params x v s⟩

end Sys2Proof.Machine
end

section
/-! The rotates are cyclic (40_alu_primitives.md R77): the bits that take part stand in a ring, of A alone or of A and the C
flag, and each rotation moves all of them by the same number of places. -/

namespace Sys2Proof.Machine

/-- `m` moves of a ring of `n` bits by `k` places move each bit by `m * k` places. -/
theorem ring_iterate {α : Type} {n k : Nat} {bit : α → Nat → Bool} {f : α → α}
    (hmove : ∀ x i, i < n → bit (f x) i = bit x ((i + k) % n)) (m : Nat) (x : α) {i : Nat} (hi : i < n) :
    bit (f^[m] x) i = bit x ((i + m * k) % n) := by
  induction m generalizing x with
  | zero => rw [Nat.zero_mul, Nat.add_zero, Nat.mod_eq_of_lt hi, Function.iterate_zero_apply]
  | succ m ih =>
    rw [Function.iterate_succ_apply, ih, hmove _ _ (Nat.mod_lt _ (Nat.zero_lt_of_lt hi)), Nat.mod_add_mod, Nat.succ_mul,
      Nat.add_assoc]

/-- As many moves as the ring has bits bring each back. -/
theorem ring_iterate_size {α : Type} {n k : Nat} {bit : α → Nat → Bool} {f : α → α}
    (hmove : ∀ x i, i < n → bit (f x) i = bit x ((i + k) % n)) (x : α) {i : Nat} (hi : i < n) :
    bit (f^[n] x) i = bit x i := by
  rw [ring_iterate hmove n x hi, Nat.add_mul_mod_self_left, Nat.mod_eq_of_lt hi]

/-! The bits of the two primitives' results (R74, R75). -/

theorem bitByte_getLsbD (b : Bool) (i : Nat) : (bitByte b).getLsbD i = (decide (i = 0) && b) := by
  cases b with
  | false => simp [bitByte]
  | true => simp [bitByte, BitVec.getLsbD_one]

theorem rotateLeft_getLsbD (v : Byte) (c through : Bool) {i : Nat} (hi : i < 8) :
    (rotateLeft v c through).result.getLsbD i =
      if i = 0 then (if through then c else v.getLsbD 7) else v.getLsbD (i - 1) := by
  simp only [rotateLeft, BitVec.getLsbD_or, BitVec.getLsbD_shiftLeft, bitByte_getLsbD]
  by_cases hzero : i = 0
  · simp [hzero]
  · simp [hzero, hi]

theorem rotateRight_getLsbD (v : Byte) (c through : Bool) {i : Nat} (hi : i < 8) :
    (rotateRight v c through).result.getLsbD i =
      if i = 7 then (if through then c else v.getLsbD 0) else v.getLsbD (i + 1) := by
  simp only [rotateRight, BitVec.getLsbD_or, BitVec.getLsbD_shiftLeft, BitVec.getLsbD_ushiftRight, bitByte_getLsbD]
  by_cases hseven : i = 7
  · simp [hseven]
  · have hlt : i < 7 := by omega
    simp [hseven, hlt, Nat.add_comm]

/-! The rotations as moves of a ring. -/

/-- One rotation of A and the C flag together, by the outcome `o` gives on the two. -/
def rotateAC (o : Byte → Bool → Alu8) (x : Byte × Bool) : Byte × Bool :=
  ((o x.1 x.2).result, (o x.1 x.2).flags.c.getD x.2)

theorem getLsbD_rotateLeft_circular (x : Byte × Bool) (i : Nat) (hi : i < 8) :
    (rotateAC (fun a _ => rotateLeft a false false) x).1.getLsbD i = x.1.getLsbD ((i + 7) % 8) := by
  refine (rotateLeft_getLsbD x.1 false false hi).trans ?_
  obtain rfl | hpos := Nat.eq_zero_or_pos i
  · rfl
  · have hring : (i + 7) % 8 = i - 1 := by omega
    rw [if_neg hpos.ne', hring]

theorem getLsbD_rotateRight_circular (x : Byte × Bool) (i : Nat) (hi : i < 8) :
    (rotateAC (fun a _ => rotateRight a false false) x).1.getLsbD i = x.1.getLsbD ((i + 1) % 8) := by
  refine (rotateRight_getLsbD x.1 false false hi).trans ?_
  obtain rfl | hlt : i = 7 ∨ i < 7 := by omega
  · rfl
  · rw [if_neg hlt.ne, Nat.mod_eq_of_lt (by omega)]

/-- A bit of the ring of nine that A and, above it, the C flag make. -/
def ringBit (x : Byte × Bool) (i : Nat) : Bool := if i = 8 then x.2 else x.1.getLsbD i

theorem ringBit_of_lt (x : Byte × Bool) {i : Nat} (hi : i < 8) : ringBit x i = x.1.getLsbD i := if_neg hi.ne

theorem ringBit_rotateLeft (x : Byte × Bool) (i : Nat) (hi : i < 9) :
    ringBit (rotateAC (rotateLeft · · true) x) i = ringBit x ((i + 8) % 9) := by
  obtain rfl | rfl | ⟨hpos, hlt⟩ : i = 8 ∨ i = 0 ∨ 0 < i ∧ i < 8 := by omega
  · rfl
  · exact rotateLeft_getLsbD x.1 x.2 true (by decide)
  · have hring : (i + 8) % 9 = i - 1 := by omega
    rw [hring, ringBit_of_lt _ hlt, ringBit_of_lt _ (by omega)]
    exact (rotateLeft_getLsbD x.1 x.2 true hlt).trans (if_neg hpos.ne')

theorem ringBit_rotateRight (x : Byte × Bool) (i : Nat) (hi : i < 9) :
    ringBit (rotateAC (rotateRight · · true) x) i = ringBit x ((i + 1) % 9) := by
  obtain rfl | rfl | hlt : i = 8 ∨ i = 7 ∨ i < 7 := by omega
  · rfl
  · exact rotateRight_getLsbD x.1 x.2 true (by decide)
  · rw [Nat.mod_eq_of_lt (by omega), ringBit_of_lt _ (by omega), ringBit_of_lt _ (by omega)]
    exact (rotateRight_getLsbD x.1 x.2 true (by omega)).trans (if_neg hlt.ne)

theorem eq_of_ringBit_eq {x y : Byte × Bool} (h : ∀ i, i < 9 → ringBit x i = ringBit y i) : x = y := by
  refine Prod.ext (BitVec.eq_of_getLsbD_eq fun i hi => ?_) (h 8 (by decide))
  rw [← ringBit_of_lt x hi, ← ringBit_of_lt y hi]
  exact h i (by omega)

/-! The handlers. -/

/-- A handler that rotates A, run `n` times, rotates A and the C flag `n` times. -/
theorem execTimes_rotateAC {i : Instr} (o : Byte → Bool → Alu8)
    (hexec : ∀ s, exec i s = rotateA (o (s.get8 .a) (s.flag .c)) s) (n : Nat) (s : State) :
    ∃ t, execTimes i n s = .next t ∧ (t.get8 .a, t.flag .c) = (rotateAC o)^[n] (s.get8 .a, s.flag .c) := by
  induction n generalizing s with
  | zero => exact ⟨s, rfl, rfl⟩
  | succ n ih =>
    obtain ⟨t, hnext, ha, hf, -⟩ := rotateA_next (o (s.get8 .a) (s.flag .c)) s
    have hcarry : t.flag .c = (o (s.get8 .a) (s.flag .c)).flags.c.getD (s.flag .c) := flag_of_writeFlags .c hf
    obtain ⟨u, hrun, hu⟩ := ih t
    refine ⟨u, ?run, ?rotated⟩
    case run => simp only [execTimes, (hexec s).trans hnext, hrun]
    case rotated =>
      rw [hu, ha, hcarry, Function.iterate_succ_apply]
      rfl

/-- Eight moves of the ring of eight. -/
theorem execTimes_circular {i : Instr} {k : Nat} {o : Byte → Bool → Alu8}
    (hexec : ∀ s, exec i s = rotateA (o (s.get8 .a) (s.flag .c)) s)
    (hmove : ∀ x i, i < 8 → (rotateAC o x).1.getLsbD i = x.1.getLsbD ((i + k) % 8)) (s : State) :
    ∃ t, execTimes i 8 s = .next t ∧ t.get8 .a = s.get8 .a := by
  obtain ⟨t, hrun, ht⟩ := execTimes_rotateAC o hexec 8 s
  exact ⟨t, hrun, (congrArg Prod.fst ht).trans (BitVec.eq_of_getLsbD_eq fun i hi =>
    ring_iterate_size (bit := fun x : Byte × Bool => x.1.getLsbD) hmove _ hi)⟩

/-- Nine moves of the ring of nine. -/
theorem execTimes_throughCarry {i : Instr} {k : Nat} {o : Byte → Bool → Alu8}
    (hexec : ∀ s, exec i s = rotateA (o (s.get8 .a) (s.flag .c)) s)
    (hmove : ∀ x i, i < 9 → ringBit (rotateAC o x) i = ringBit x ((i + k) % 9)) (s : State) :
    ∃ t, execTimes i 9 s = .next t ∧ t.get8 .a = s.get8 .a ∧ t.flag .c = s.flag .c := by
  obtain ⟨t, hrun, ht⟩ := execTimes_rotateAC o hexec 9 s
  exact ⟨t, hrun, Prod.mk.inj (ht.trans (eq_of_ringBit_eq fun i hi => ring_iterate_size hmove _ hi))⟩

/-- The bit RLCA moves in at the bottom RRCA moves back to the top. -/
theorem rotateRight_rotateLeft_circular (v : Byte) :
    (rotateRight (rotateLeft v false false).result false false).result = v := by
  refine BitVec.eq_of_getLsbD_eq fun i hi => ?_
  have hright := getLsbD_rotateRight_circular ((rotateLeft v false false).result, false) i hi
  have hleft := getLsbD_rotateLeft_circular (v, false) ((i + 1) % 8) (Nat.mod_lt _ (by decide))
  refine (hright.trans hleft).trans (congrArg v.getLsbD ?_)
  omega

/-- Settles O52: as many rotations as the ring has bits, or one there and one back. -/
theorem rotatesAreCyclic : Obligations.RotatesAreCyclic := by
  intro s
  refine ⟨?circular, ?inverse, ?throughCarry⟩
  case circular =>
    rintro i (rfl | rfl)
    · exact execTimes_circular exec_rlca getLsbD_rotateLeft_circular s
    · exact execTimes_circular exec_rrca getLsbD_rotateRight_circular s
  case inverse =>
    obtain ⟨t, hleft, ht, -⟩ := rotateA_next (rotateLeft (s.get8 .a) false false) s
    obtain ⟨u, hright, hu, -⟩ := rotateA_next (rotateRight (t.get8 .a) false false) t
    exact ⟨t, u, (exec_rlca s).trans hleft, (exec_rrca t).trans hright, by rw [hu, ht, rotateRight_rotateLeft_circular]⟩
  case throughCarry =>
    rintro i (rfl | rfl)
    · exact execTimes_throughCarry exec_rla ringBit_rotateLeft s
    · exact execTimes_throughCarry exec_rra ringBit_rotateRight s

end Sys2Proof.Machine
end

section
/-! DAA corrects the binary sum or difference of packed-BCD numbers (47_daa_scf.md R130): its two conditions are the decimal
carries. -/

namespace Sys2Proof.Machine

/-! Packed-BCD numbers, by their digits. -/

theorem packedBcd_toNat {tens units : Nat} (htens : tens < 10) (hunits : units < 10) :
    (packedBcd (tens * 10 + units)).toNat = tens * 16 + units := by
  rw [packedBcd, BitVec.toNat_ofNat]
  omega

theorem eq_packedBcd_of_toNat {tens units : Nat} {v : Byte} (htens : tens < 10) (hunits : units < 10)
    (h : v.toNat = tens * 16 + units) : v = packedBcd (tens * 10 + units) :=
  BitVec.eq_of_toNat_eq (h.trans (packedBcd_toNat htens hunits).symm)

theorem exists_digits {x : Nat} (hx : x < 100) : ∃ tens units, tens < 10 ∧ units < 10 ∧ x = tens * 10 + units :=
  ⟨x / 10, x % 10, by omega, by omega, by omega⟩

/-- The written addition of the two-digit numbers `p q` and `r s`: units `u`, carry `low`, then tens `v`, carry `high`. -/
structure DigitSum (p q r s u low v high : Nat) : Prop where
  operands : p < 10 ∧ q < 10 ∧ r < 10 ∧ s < 10
  digits : u < 10 ∧ v < 10
  units : q + s = low * 10 + u
  tens : p + r + low = high * 10 + v

theorem exists_digitSum {p q r s : Nat} (hp : p < 10) (hq : q < 10) (hr : r < 10) (hs : s < 10) :
    ∃ u low v high, DigitSum p q r s u low v high :=
  ⟨(q + s) % 10, (q + s) / 10, (p + r + (q + s) / 10) % 10, (p + r + (q + s) / 10) / 10, ⟨hp, hq, hr, hs⟩,
    by omega, by omega, by omega⟩

section Digits
variable {p q r s u low v high : Nat}

/-- A half carry or a low nibble above 9 is the carry out of the units. -/
theorem DigitSum.daaLow_iff (h : DigitSum p q r s u low v high) :
    (p * 16 + q) % 16 + (r * 16 + s) % 16 > 15 ∨ (p * 16 + q + (r * 16 + s)) % 256 % 16 > 9 ↔ low = 1 := by
  obtain ⟨⟨hp, hq, hr, hs⟩, ⟨hu, hv⟩, hunits, htens⟩ := h
  omega

/-- A carry or a byte above 0x99 is the carry out of the tens. -/
theorem DigitSum.daaHigh_iff (h : DigitSum p q r s u low v high) :
    p * 16 + q + (r * 16 + s) > 255 ∨ (p * 16 + q + (r * 16 + s)) % 256 > 0x99 ↔ high = 1 := by
  obtain ⟨⟨hp, hq, hr, hs⟩, ⟨hu, hv⟩, hunits, htens⟩ := h
  obtain rfl | rfl : low = 0 ∨ low = 1 := by omega
  · omega
  · omega

/-- With 6 for each carry, the binary sum has the decimal digits. -/
theorem DigitSum.daa_result (h : DigitSum p q r s u low v high) :
    ((p * 16 + q + (r * 16 + s)) % 256 + (if low = 1 then 6 else 0) + (if high = 1 then 0x60 else 0)) % 256 = v * 16 + u := by
  obtain ⟨⟨hp, hq, hr, hs⟩, ⟨hu, hv⟩, hunits, htens⟩ := h
  split <;> split <;> omega

theorem DigitSum.sum_eq (h : DigitSum p q r s u low v high) :
    (p * 10 + q + (r * 10 + s)) % 100 = v * 10 + u ∧ (p * 10 + q + (r * 10 + s) ≥ 100 ↔ high = 1) := by
  obtain ⟨⟨hp, hq, hr, hs⟩, ⟨hu, hv⟩, hunits, htens⟩ := h
  omega

end Digits

/-! The instructions. -/

/-- DAA on the sum of two packed-BCD bytes, with the flags the addition leaves. -/
theorem daa_after_addition {t : State} {x y : Nat} (hx : x < 100) (hy : y < 100)
    (hsum : (t.get8 .a).toNat = ((packedBcd x).toNat + (packedBcd y).toNat) % 256) (hn : t.flag .n = false)
    (hh : t.flag .h = decide ((packedBcd x).toNat % 16 + (packedBcd y).toNat % 16 > 15))
    (hc : t.flag .c = decide ((packedBcd x).toNat + (packedBcd y).toNat > 255)) :
    ∃ u, exec .daa t = .next u ∧ u.get8 .a = packedBcd ((x + y) % 100) ∧ u.flag .c = decide (x + y ≥ 100) := by
  obtain ⟨p, q, hp, hq, rfl⟩ := exists_digits hx
  obtain ⟨r, s, hr, hs, rfl⟩ := exists_digits hy
  rw [packedBcd_toNat hp hq, packedBcd_toNat hr hs] at hsum hh hc
  obtain ⟨u, low, v, high, hdigits⟩ := exists_digitSum hp hq hr hs
  obtain ⟨hmod, hcarries⟩ := hdigits.sum_eq
  obtain ⟨w, hexec, hadd, -⟩ := decimalAdjusts t
  obtain ⟨hresult, hcarry⟩ := hadd hn
  rw [hsum] at hresult hcarry
  simp only [hh, hc, decide_eq_true_eq, hdigits.daaLow_iff, hdigits.daaHigh_iff] at hresult
  refine ⟨w, hexec, ?result, ?carry⟩
  case result =>
    obtain ⟨hu, hv⟩ := hdigits.digits
    rw [hmod]
    exact eq_packedBcd_of_toNat hv hu (hresult.trans hdigits.daa_result)
  case carry => rw [hcarry, hc, ← Bool.decide_or, decide_eq_decide, hdigits.daaHigh_iff, hcarries]

/-- ADD A and the adjustment after it, for every instruction `i` that adds the operand. -/
theorem daa_after_addA {i : Instr} {s t : State} {x y : Nat} (hx : x < 100) (hy : y < 100) (hax : s.get8 .a = packedBcd x)
    (hexec : exec i s = .next t) (hadded : AddedToA (packedBcd y) s t) :
    ∃ t u, exec i s = .next t ∧ exec .daa t = .next u ∧ u.get8 .a = packedBcd ((x + y) % 100) ∧
      u.flag .c = decide (x + y ≥ 100) := by
  obtain ⟨hsum, -, hn, hh, hc, -⟩ := hadded
  rw [hax] at hsum hh hc
  obtain ⟨u, hdaa, hresult, hcarry⟩ := daa_after_addition hx hy hsum hn hh hc
  exact ⟨t, u, hexec, hdaa, hresult, hcarry⟩

/-- INC A with C clear leaves what an addition of 1 leaves. -/
theorem daa_after_incA {s : State} {x : Nat} (hx : x < 100) (hax : s.get8 .a = packedBcd x) (hclear : s.flag .c = false) :
    ∃ t u, exec .incA s = .next t ∧ exec .daa t = .next u ∧ u.get8 .a = packedBcd ((x + 1) % 100) ∧
      u.flag .c = decide (x + 1 ≥ 100) := by
  obtain ⟨p, q, hp, hq, hdigits⟩ := exists_digits hx
  have htoNat : (packedBcd x).toNat = p * 16 + q := by rw [hdigits, packedBcd_toNat hp hq]
  obtain ⟨t, hexec, hsum, -, hn, hh, hc, -⟩ := incrementsRegister .a s
  rw [hax] at hsum hh
  have hhalf : t.flag .h = decide ((packedBcd x).toNat % 16 + 1 % 16 > 15) := by
    rw [hh, decide_eq_decide]
    omega
  have hcarry : t.flag .c = decide ((packedBcd x).toNat + 1 > 255) := by
    rw [hc, hclear, eq_comm, decide_eq_false_iff_not]
    omega
  obtain ⟨u, hdaa, hresult⟩ := daa_after_addition hx (y := 1) (by decide) hsum hn hhalf hcarry
  exact ⟨t, u, hexec, hdaa, hresult⟩

/-- DEC A with C clear borrows from the tens exactly where the units are 0, which H tells. -/
theorem daa_after_decA {s : State} {x : Nat} (hx : x < 100) (hpos : 0 < x) (hax : s.get8 .a = packedBcd x)
    (hclear : s.flag .c = false) :
    ∃ t u, exec .decA s = .next t ∧ exec .daa t = .next u ∧ u.get8 .a = packedBcd (x - 1) ∧ u.flag .c = false := by
  obtain ⟨p, q, hp, hq, rfl⟩ := exists_digits hx
  have ha : (s.get8 .a).toNat = p * 16 + q := by rw [hax, packedBcd_toNat hp hq]
  obtain ⟨t, hexec, hdiff, -, hn, hh, hc, -⟩ := decrementsRegister .a s
  obtain ⟨u, hdaa, -, hsub, -⟩ := decimalAdjusts t
  obtain ⟨hresult, hcarry⟩ := hsub hn
  rw [hdiff, hh, ha, hc, hclear] at hresult
  refine ⟨t, u, hexec, hdaa, ?_, hcarry.trans (hc.trans hclear)⟩
  obtain ⟨v, w, hv, hw, hdigits⟩ := exists_digits (x := p * 10 + q - 1) (by omega)
  rw [hdigits]
  refine eq_packedBcd_of_toNat hv hw (hresult.trans ?_)
  simp only [decide_eq_true_eq, Bool.false_eq_true, if_false]
  split <;> omega

/-- Settles O51: each form of ADD A, and INC A with C clear, leaves a sum for DAA to correct; DEC A leaves a difference. -/
theorem decimalAdjustGivesDecimalSum : Obligations.DecimalAdjustGivesDecimalSum := by
  intro s x y hx hy hax
  obtain ⟨haddR, haddMhl, haddD8⟩ := addsToA s
  refine ⟨?addition, fun hclear => ?increment, fun hclear hpos => daa_after_decA hx hpos hax hclear⟩
  case addition =>
    rintro i (⟨r, rfl, hr⟩ | ⟨rfl, hbyte⟩ | rfl)
    · obtain ⟨t, hexec, hadded, -⟩ := haddR r
      exact daa_after_addA hx hy hax hexec (hr ▸ hadded)
    · obtain ⟨t, hexec, hadded, -⟩ := haddMhl
      exact daa_after_addA hx hy hax hexec (hbyte ▸ hadded)
    · obtain ⟨t, hexec, hadded, -⟩ := haddD8 (packedBcd y)
      exact daa_after_addA hx hy hax hexec hadded
  case increment =>
    obtain ⟨t, u, hexec, hdaa, hresult, hcarry⟩ := daa_after_incA hx hax hclear
    refine ⟨t, u, hexec, hdaa, hresult, hcarry.trans (decide_eq_decide.mpr ?_)⟩
    omega

end Sys2Proof.Machine
end
